-- ==== Sys2Proof/Word.lean ====
section
/-! DEFINITION. The two word sizes of the hardware (spec/00_scope.md R6): a byte is 8 bits, a word is 16 bits.
Their arithmetic is core Lean's `BitVec` arithmetic, which wraps as R258 asks. -/

namespace Sys2Proof

/-- 8 bits: every register but PC, every memory cell, every access (R6, R77). -/
abbrev Byte := BitVec 8

/-- 16 bits: PC and every address (R6, R23, R60). -/
abbrev Word := BitVec 16

end Sys2Proof
end

