-- ==== Sys2Proof/Config.lean ====
section
/-! DEFINITION. The implementation parameters of spec/00_scope.md R5 as plain data (`Params`), the shapes of the binding
operations (20_memory.md R63, R64) and of the platform's callbacks (R68, 40_step_and_addressing.md R155), the constants the core
fixes (R79), and the free values: what a callback answers when the parameters do not tabulate it. -/

namespace Sys2Proof

/-- `N`: the size of the address space of the Memory the CPU executes against (R5, R61). -/
def Config.addressSpace : Nat := 65536

/-- The NMI vector's address (R79, R333). -/
def Config.nmiVector : Word := 0xFFFA#16

/-- The reset vector's address (R79, R380). -/
def Config.resetVector : Word := 0xFFFC#16

/-- The vector IRQ and BRK share (R79, R319, R333). -/
def Config.irqVector : Word := 0xFFFE#16

/-- The platform's own state behind the callbacks (R40), opaque to the core: a code the core only hands on.
DESIGN CHOICE, log 5: safe for every platform with countably many states. -/
abbrev Plat := Nat

/-- One write of a callback to a shared backing array: `StoreId x Index x Byte` of R68. -/
structure StoreWrite where
  store : Nat
  index : Nat
  value : Byte
deriving DecidableEq, Repr, Inhabited

/-- What a callback may do to the machine besides its answer (R68). `setCfg` is the argument of a call of
`SetMemoryConfiguration`, which may be out of range (R347). -/
structure Effects where
  storeWrites : List StoreWrite := []
  setCfg : Option Int := none
  raiseIrq : Bool := false
  raiseNmi : Bool := false
deriving DecidableEq, Repr, Inhabited

/-- `Byte x Plat x Effects`: what a Reader gives (R68). -/
structure ReaderReply where
  value : Byte
  plat : Plat
  effects : Effects
deriving DecidableEq, Repr, Inhabited

/-- `Plat x Effects`: what a Writer gives (R68). -/
structure WriterReply where
  plat : Plat
  effects : Effects
deriving DecidableEq, Repr, Inhabited

/-- What the instruction-completed observer does in its window: write shared stores, set `IRQ`, set `NMI` (R155, R392). DESIGN CHOICE,
safe: it may also clear `IRQ` and change the platform's state, which no rule gives or denies it (log 11). DESIGN CHOICE, unsafe: it
cannot clear `NMI` (log 18). -/
structure ObserverReply where
  plat : Plat
  storeWrites : List StoreWrite := []
  setIrq : Option Bool := none
  raiseNmi : Bool := false
deriving DecidableEq, Repr, Inhabited

/-- FREE VALUE (log 5): the answer of Reader `f` in a platform state the parameters do not tabulate. -/
opaque Config.reader : Nat → Plat → ReaderReply

/-- FREE VALUE (log 5): the answer of Writer `g` to a byte in a platform state the parameters do not tabulate. -/
opaque Config.writer : Nat → Plat → Byte → WriterReply

/-- FREE VALUE (log 5): the move of observer `o` when told a cycle count, where the parameters do not tabulate it. It may read the
shared stores in its window (70_reset_and_hazards.md R392), so their cells are an argument. -/
opaque Config.observer : Nat → Plat → Nat → List (List Host.Cell) → ObserverReply

/-- One tabulated answer of a Reader: callback `reader` in platform state `plat`. -/
structure ReaderRow where
  reader : Nat
  plat : Plat
  reply : ReaderReply
deriving DecidableEq, Repr

/-- One tabulated answer of a Writer: callback `writer` in platform state `plat`, given `value`. -/
structure WriterRow where
  writer : Nat
  plat : Plat
  value : Byte
  reply : WriterReply
deriving DecidableEq, Repr

/-- One tabulated move of an observer told `cycles` in platform state `plat`. -/
structure ObserverRow where
  observer : Nat
  plat : Plat
  cycles : Nat
  reply : ObserverReply
deriving DecidableEq, Repr

/-- The `Platform` parameter (R5, R68): the callbacks' transition functions. The tables say what they answer where a
model fixes it; elsewhere the answer is the free value above. -/
structure Platform where
  readers : List ReaderRow := []
  writers : List WriterRow := []
  observers : List ObserverRow := []
deriving DecidableEq, Repr

/-- The four binding operations (R64), each for the configuration whose list it stands in. -/
inductive BindOp where
  | mapRam (start store offset length : Nat)
  | mapRom (start store offset length : Nat)
  | mapReader (address reader : Nat)
  | mapWriter (address writer : Nat)
deriving DecidableEq, Repr

/-- A cell of a configuration's read table `RB` (R63). -/
inductive ReadBinding where
  | unbound
  | array (store index : Nat)
  | reader (f : Nat)
deriving DecidableEq, Repr

/-- A cell of a configuration's write table `WB` (R63). -/
inductive WriteBinding where
  | unbound
  | array (store index : Nat)
  | drop
  | writer (g : Nat)
deriving DecidableEq, Repr

/-- The parameters of R5 that are not fixed by the core. The model carries them inside `State`, because the host's interface
gives a step no other argument; no step writes them (log 1). -/
structure Params where
  /-- `Bind`: the binding operations of each configuration in the order of setup; `C` is the list's length (R63, R64). -/
  configs : List (List BindOp)
  /-- `Platform` (R68). -/
  platform : Platform := {}
  /-- The installed instruction-completed observer, if any (R155). -/
  observer : Option Nat := none
  /-- `UNKNOWN_THROWS` (R343, R344). -/
  unknownThrows : Bool := false
  /-- `INTERRUPT_CYCLES` (R338). -/
  interruptCycles : Nat := 7
  /-- `UNKNOWN_OPCODE_CYCLES` (R344). -/
  unknownOpcodeCycles : Nat := 0
  /-- `RESET_A`, `RESET_X`, `RESET_Y`, `RESET_SP`, `RESET_P` with the defaults of R381. -/
  resetA : Byte := 0x00#8
  resetX : Byte := 0x00#8
  resetY : Byte := 0x00#8
  resetSp : Byte := 0xFD#8
  resetP : Byte := 0x24#8
deriving DecidableEq, Repr

/-- `C`, the number of configurations (R62). -/
def Params.count (p : Params) : Nat := p.configs.length

end Sys2Proof
end

