-- ==== Sys2Proof/Syntax.lean ====
section
/-! DEFINITION. The instructions: one constructor for each of the 151 rows of spec/opcode_table.json (30_encoding.md R120), named
by its mnemonic and addressing mode (R111), with the assembled operand of R113: an immediate `v`, a zero-page address `d`, a branch
offset `d`, or a 16-bit address `w`. -/

namespace Sys2Proof

inductive Instr where
  -- Load, store and transfer (41_load_store_transfer.md)
  | ldaImm (v : Byte)
  | ldaZp (d : Byte)
  | ldaZpX (d : Byte)
  | ldaAbs (w : Word)
  | ldaAbsX (w : Word)
  | ldaAbsY (w : Word)
  | ldaIndX (d : Byte)
  | ldaIndY (d : Byte)
  | ldxImm (v : Byte)
  | ldxZp (d : Byte)
  | ldxZpY (d : Byte)
  | ldxAbs (w : Word)
  | ldxAbsY (w : Word)
  | ldyImm (v : Byte)
  | ldyZp (d : Byte)
  | ldyZpX (d : Byte)
  | ldyAbs (w : Word)
  | ldyAbsX (w : Word)
  | staZp (d : Byte)
  | staZpX (d : Byte)
  | staAbs (w : Word)
  | staAbsX (w : Word)
  | staAbsY (w : Word)
  | staIndX (d : Byte)
  | staIndY (d : Byte)
  | stxZp (d : Byte)
  | stxZpY (d : Byte)
  | stxAbs (w : Word)
  | styZp (d : Byte)
  | styZpX (d : Byte)
  | styAbs (w : Word)
  | tax
  | tay
  | txa
  | tya
  | tsx
  | txs
  -- Stack (42_stack.md)
  | pha
  | php
  | pla
  | plp
  -- Logic and bit test (43_logic_bit.md)
  | andImm (v : Byte)
  | andZp (d : Byte)
  | andZpX (d : Byte)
  | andAbs (w : Word)
  | andAbsX (w : Word)
  | andAbsY (w : Word)
  | andIndX (d : Byte)
  | andIndY (d : Byte)
  | oraImm (v : Byte)
  | oraZp (d : Byte)
  | oraZpX (d : Byte)
  | oraAbs (w : Word)
  | oraAbsX (w : Word)
  | oraAbsY (w : Word)
  | oraIndX (d : Byte)
  | oraIndY (d : Byte)
  | eorImm (v : Byte)
  | eorZp (d : Byte)
  | eorZpX (d : Byte)
  | eorAbs (w : Word)
  | eorAbsX (w : Word)
  | eorAbsY (w : Word)
  | eorIndX (d : Byte)
  | eorIndY (d : Byte)
  | bitZp (d : Byte)
  | bitAbs (w : Word)
  -- Arithmetic and compare (44_arithmetic_compare.md)
  | adcImm (v : Byte)
  | adcZp (d : Byte)
  | adcZpX (d : Byte)
  | adcAbs (w : Word)
  | adcAbsX (w : Word)
  | adcAbsY (w : Word)
  | adcIndX (d : Byte)
  | adcIndY (d : Byte)
  | sbcImm (v : Byte)
  | sbcZp (d : Byte)
  | sbcZpX (d : Byte)
  | sbcAbs (w : Word)
  | sbcAbsX (w : Word)
  | sbcAbsY (w : Word)
  | sbcIndX (d : Byte)
  | sbcIndY (d : Byte)
  | cmpImm (v : Byte)
  | cmpZp (d : Byte)
  | cmpZpX (d : Byte)
  | cmpAbs (w : Word)
  | cmpAbsX (w : Word)
  | cmpAbsY (w : Word)
  | cmpIndX (d : Byte)
  | cmpIndY (d : Byte)
  | cpxImm (v : Byte)
  | cpxZp (d : Byte)
  | cpxAbs (w : Word)
  | cpyImm (v : Byte)
  | cpyZp (d : Byte)
  | cpyAbs (w : Word)
  -- Increment, decrement, shift, rotate (45_incdec_shift.md)
  | incZp (d : Byte)
  | incZpX (d : Byte)
  | incAbs (w : Word)
  | incAbsX (w : Word)
  | decZp (d : Byte)
  | decZpX (d : Byte)
  | decAbs (w : Word)
  | decAbsX (w : Word)
  | inx
  | iny
  | dex
  | dey
  | aslAcc
  | aslZp (d : Byte)
  | aslZpX (d : Byte)
  | aslAbs (w : Word)
  | aslAbsX (w : Word)
  | lsrAcc
  | lsrZp (d : Byte)
  | lsrZpX (d : Byte)
  | lsrAbs (w : Word)
  | lsrAbsX (w : Word)
  | rolAcc
  | rolZp (d : Byte)
  | rolZpX (d : Byte)
  | rolAbs (w : Word)
  | rolAbsX (w : Word)
  | rorAcc
  | rorZp (d : Byte)
  | rorZpX (d : Byte)
  | rorAbs (w : Word)
  | rorAbsX (w : Word)
  -- Control transfer (46_control_transfer.md)
  | jmpAbs (w : Word)
  | jmpInd (w : Word)
  | jsr (w : Word)
  | rts
  | bcc (d : Byte)
  | bcs (d : Byte)
  | beq (d : Byte)
  | bne (d : Byte)
  | bmi (d : Byte)
  | bpl (d : Byte)
  | bvc (d : Byte)
  | bvs (d : Byte)
  -- Flags, no-operation, break, return (47_flags_system.md)
  | clc
  | sec
  | cli
  | sei
  | cld
  | sed
  | clv
  | nop
  | brk
  | rti
deriving DecidableEq, Repr

end Sys2Proof
end

