-- ==== Sys2Proof/WellFormed.lean ====
section
/-! DEFINITION. Which terms the model admits. Every instruction term is admitted: each operand byte value is legal for every opcode
and there is no reserved immediate or address (30_encoding.md R124), and the operand types of `Instr` hold exactly what the formats
of R112 carry. The checks proper are those of the binding operations: a range stays inside the address space and inside its store,
and there is at least one configuration (20_memory.md R64, 93_implementation_defined.md U12). -/

namespace Sys2Proof

/-- R124: no operand value is reserved, so every instruction term is well formed. -/
def Instr.wellFormed (_ : Instr) : Bool := true

/-- The range condition of R64 on a RAM or ROM binding, where `sizes` are the lengths of the stores: `a0 + n <= N` and
`o + n <= len[s]` for a store that exists. -/
def rangeAdmitted (sizes : List Nat) (start store offset length : Nat) : Bool :=
  match sizes[store]? with
  | none => false
  | some size => decide (start + length ≤ Config.addressSpace) && decide (offset + length ≤ size)

/-- The condition of R64 on one binding operation. -/
def BindOp.admitted (sizes : List Nat) : BindOp → Bool
  | .mapRam a s o n => rangeAdmitted sizes a s o n
  | .mapRom a s o n => rangeAdmitted sizes a s o n
  | .mapReader a _ => decide (a < Config.addressSpace)
  | .mapWriter a _ => decide (a < Config.addressSpace)

/-- `Bind` and `C` are admitted: `C >= 1` and every binding operation satisfies R64. -/
def Params.wellFormed (p : Params) (sizes : List Nat) : Bool :=
  decide (1 ≤ p.count) && p.configs.all fun ops => ops.all (BindOp.admitted sizes)

end Sys2Proof
end

