-- ==== Sys2Proof/Decode.lean ====
section
/-! DEFINITION. The encoding of spec/30_encoding.md: the decoder, which follows the 16 x 16 matrix of R121, and AFTER it the opcode
table of R120 row by row with the encoder that reads it. The two are written from the spec's two tables and a law says they agree. -/

namespace Sys2Proof

/-! ## Bit fields (00_scope.md R6, R7) -/

/-- `lo8(w) = w[7:0]`. -/
def lo8 (w : Word) : Byte := w.truncate 8

/-- `hi8(w) = w[15:8]`; of an address, its page (R12). -/
def hi8 (w : Word) : Byte := (w >>> 8).truncate 8

/-- `hi ++ lo`, the word `hi*256 + lo`. -/
def joinWord (hi lo : Byte) : Word := hi ++ lo

/-- `sext_16(b)` as a 16-bit value. -/
def sext16 (b : Byte) : Word := b.signExtend 16

/-- `zext_16(b)`: an address in page 0. -/
def zext16 (b : Byte) : Word := b.zeroExtend 16

/-! ## The decoder -/

/-- The three formats of R112, each with the instruction its operand bytes complete. -/
inductive Form where
  | f1 (i : Instr)
  | f2 (i : Byte → Instr)
  | f3 (i : Word → Instr)

/-- The instruction's length in bytes: 1 + operand bytes (R111, R114). -/
def Form.length : Form → Nat
  | .f1 _ => 1
  | .f2 _ => 2
  | .f3 _ => 3

/-- Row `0x` of the matrix of R121. -/
def opcodeRow0 (lo : Nat) : Option Form :=
  match lo with
  | 0x0 => some (.f1 .brk)
  | 0x1 => some (.f2 .oraIndX)
  | 0x5 => some (.f2 .oraZp)
  | 0x6 => some (.f2 .aslZp)
  | 0x8 => some (.f1 .php)
  | 0x9 => some (.f2 .oraImm)
  | 0xA => some (.f1 .aslAcc)
  | 0xD => some (.f3 .oraAbs)
  | 0xE => some (.f3 .aslAbs)
  | _ => none

/-- Row `1x` of the matrix of R121. -/
def opcodeRow1 (lo : Nat) : Option Form :=
  match lo with
  | 0x0 => some (.f2 .bpl)
  | 0x1 => some (.f2 .oraIndY)
  | 0x5 => some (.f2 .oraZpX)
  | 0x6 => some (.f2 .aslZpX)
  | 0x8 => some (.f1 .clc)
  | 0x9 => some (.f3 .oraAbsY)
  | 0xD => some (.f3 .oraAbsX)
  | 0xE => some (.f3 .aslAbsX)
  | _ => none

/-- Row `2x` of the matrix of R121. -/
def opcodeRow2 (lo : Nat) : Option Form :=
  match lo with
  | 0x0 => some (.f3 .jsr)
  | 0x1 => some (.f2 .andIndX)
  | 0x4 => some (.f2 .bitZp)
  | 0x5 => some (.f2 .andZp)
  | 0x6 => some (.f2 .rolZp)
  | 0x8 => some (.f1 .plp)
  | 0x9 => some (.f2 .andImm)
  | 0xA => some (.f1 .rolAcc)
  | 0xC => some (.f3 .bitAbs)
  | 0xD => some (.f3 .andAbs)
  | 0xE => some (.f3 .rolAbs)
  | _ => none

/-- Row `3x` of the matrix of R121. -/
def opcodeRow3 (lo : Nat) : Option Form :=
  match lo with
  | 0x0 => some (.f2 .bmi)
  | 0x1 => some (.f2 .andIndY)
  | 0x5 => some (.f2 .andZpX)
  | 0x6 => some (.f2 .rolZpX)
  | 0x8 => some (.f1 .sec)
  | 0x9 => some (.f3 .andAbsY)
  | 0xD => some (.f3 .andAbsX)
  | 0xE => some (.f3 .rolAbsX)
  | _ => none

/-- Row `4x` of the matrix of R121. -/
def opcodeRow4 (lo : Nat) : Option Form :=
  match lo with
  | 0x0 => some (.f1 .rti)
  | 0x1 => some (.f2 .eorIndX)
  | 0x5 => some (.f2 .eorZp)
  | 0x6 => some (.f2 .lsrZp)
  | 0x8 => some (.f1 .pha)
  | 0x9 => some (.f2 .eorImm)
  | 0xA => some (.f1 .lsrAcc)
  | 0xC => some (.f3 .jmpAbs)
  | 0xD => some (.f3 .eorAbs)
  | 0xE => some (.f3 .lsrAbs)
  | _ => none

/-- Row `5x` of the matrix of R121. -/
def opcodeRow5 (lo : Nat) : Option Form :=
  match lo with
  | 0x0 => some (.f2 .bvc)
  | 0x1 => some (.f2 .eorIndY)
  | 0x5 => some (.f2 .eorZpX)
  | 0x6 => some (.f2 .lsrZpX)
  | 0x8 => some (.f1 .cli)
  | 0x9 => some (.f3 .eorAbsY)
  | 0xD => some (.f3 .eorAbsX)
  | 0xE => some (.f3 .lsrAbsX)
  | _ => none

/-- Row `6x` of the matrix of R121. -/
def opcodeRow6 (lo : Nat) : Option Form :=
  match lo with
  | 0x0 => some (.f1 .rts)
  | 0x1 => some (.f2 .adcIndX)
  | 0x5 => some (.f2 .adcZp)
  | 0x6 => some (.f2 .rorZp)
  | 0x8 => some (.f1 .pla)
  | 0x9 => some (.f2 .adcImm)
  | 0xA => some (.f1 .rorAcc)
  | 0xC => some (.f3 .jmpInd)
  | 0xD => some (.f3 .adcAbs)
  | 0xE => some (.f3 .rorAbs)
  | _ => none

/-- Row `7x` of the matrix of R121. -/
def opcodeRow7 (lo : Nat) : Option Form :=
  match lo with
  | 0x0 => some (.f2 .bvs)
  | 0x1 => some (.f2 .adcIndY)
  | 0x5 => some (.f2 .adcZpX)
  | 0x6 => some (.f2 .rorZpX)
  | 0x8 => some (.f1 .sei)
  | 0x9 => some (.f3 .adcAbsY)
  | 0xD => some (.f3 .adcAbsX)
  | 0xE => some (.f3 .rorAbsX)
  | _ => none

/-- Row `8x` of the matrix of R121. -/
def opcodeRow8 (lo : Nat) : Option Form :=
  match lo with
  | 0x1 => some (.f2 .staIndX)
  | 0x4 => some (.f2 .styZp)
  | 0x5 => some (.f2 .staZp)
  | 0x6 => some (.f2 .stxZp)
  | 0x8 => some (.f1 .dey)
  | 0xA => some (.f1 .txa)
  | 0xC => some (.f3 .styAbs)
  | 0xD => some (.f3 .staAbs)
  | 0xE => some (.f3 .stxAbs)
  | _ => none

/-- Row `9x` of the matrix of R121. -/
def opcodeRow9 (lo : Nat) : Option Form :=
  match lo with
  | 0x0 => some (.f2 .bcc)
  | 0x1 => some (.f2 .staIndY)
  | 0x4 => some (.f2 .styZpX)
  | 0x5 => some (.f2 .staZpX)
  | 0x6 => some (.f2 .stxZpY)
  | 0x8 => some (.f1 .tya)
  | 0x9 => some (.f3 .staAbsY)
  | 0xA => some (.f1 .txs)
  | 0xD => some (.f3 .staAbsX)
  | _ => none

/-- Row `Ax` of the matrix of R121. -/
def opcodeRowA (lo : Nat) : Option Form :=
  match lo with
  | 0x0 => some (.f2 .ldyImm)
  | 0x1 => some (.f2 .ldaIndX)
  | 0x2 => some (.f2 .ldxImm)
  | 0x4 => some (.f2 .ldyZp)
  | 0x5 => some (.f2 .ldaZp)
  | 0x6 => some (.f2 .ldxZp)
  | 0x8 => some (.f1 .tay)
  | 0x9 => some (.f2 .ldaImm)
  | 0xA => some (.f1 .tax)
  | 0xC => some (.f3 .ldyAbs)
  | 0xD => some (.f3 .ldaAbs)
  | 0xE => some (.f3 .ldxAbs)
  | _ => none

/-- Row `Bx` of the matrix of R121. -/
def opcodeRowB (lo : Nat) : Option Form :=
  match lo with
  | 0x0 => some (.f2 .bcs)
  | 0x1 => some (.f2 .ldaIndY)
  | 0x4 => some (.f2 .ldyZpX)
  | 0x5 => some (.f2 .ldaZpX)
  | 0x6 => some (.f2 .ldxZpY)
  | 0x8 => some (.f1 .clv)
  | 0x9 => some (.f3 .ldaAbsY)
  | 0xA => some (.f1 .tsx)
  | 0xC => some (.f3 .ldyAbsX)
  | 0xD => some (.f3 .ldaAbsX)
  | 0xE => some (.f3 .ldxAbsY)
  | _ => none

/-- Row `Cx` of the matrix of R121. -/
def opcodeRowC (lo : Nat) : Option Form :=
  match lo with
  | 0x0 => some (.f2 .cpyImm)
  | 0x1 => some (.f2 .cmpIndX)
  | 0x4 => some (.f2 .cpyZp)
  | 0x5 => some (.f2 .cmpZp)
  | 0x6 => some (.f2 .decZp)
  | 0x8 => some (.f1 .iny)
  | 0x9 => some (.f2 .cmpImm)
  | 0xA => some (.f1 .dex)
  | 0xC => some (.f3 .cpyAbs)
  | 0xD => some (.f3 .cmpAbs)
  | 0xE => some (.f3 .decAbs)
  | _ => none

/-- Row `Dx` of the matrix of R121. -/
def opcodeRowD (lo : Nat) : Option Form :=
  match lo with
  | 0x0 => some (.f2 .bne)
  | 0x1 => some (.f2 .cmpIndY)
  | 0x5 => some (.f2 .cmpZpX)
  | 0x6 => some (.f2 .decZpX)
  | 0x8 => some (.f1 .cld)
  | 0x9 => some (.f3 .cmpAbsY)
  | 0xD => some (.f3 .cmpAbsX)
  | 0xE => some (.f3 .decAbsX)
  | _ => none

/-- Row `Ex` of the matrix of R121. -/
def opcodeRowE (lo : Nat) : Option Form :=
  match lo with
  | 0x0 => some (.f2 .cpxImm)
  | 0x1 => some (.f2 .sbcIndX)
  | 0x4 => some (.f2 .cpxZp)
  | 0x5 => some (.f2 .sbcZp)
  | 0x6 => some (.f2 .incZp)
  | 0x8 => some (.f1 .inx)
  | 0x9 => some (.f2 .sbcImm)
  | 0xA => some (.f1 .nop)
  | 0xC => some (.f3 .cpxAbs)
  | 0xD => some (.f3 .sbcAbs)
  | 0xE => some (.f3 .incAbs)
  | _ => none

/-- Row `Fx` of the matrix of R121. -/
def opcodeRowF (lo : Nat) : Option Form :=
  match lo with
  | 0x0 => some (.f2 .beq)
  | 0x1 => some (.f2 .sbcIndY)
  | 0x5 => some (.f2 .sbcZpX)
  | 0x6 => some (.f2 .incZpX)
  | 0x8 => some (.f1 .sed)
  | 0x9 => some (.f3 .sbcAbsY)
  | 0xD => some (.f3 .sbcAbsX)
  | 0xE => some (.f3 .incAbsX)
  | _ => none

/-- The Opcode Table as a map from a byte: the high nibble chooses the row of R121, the low nibble the column; `none` marks the
unknown opcodes of R122. -/
def opcodeForm (b0 : Byte) : Option Form :=
  let lo := b0.toNat % 16
  match b0.toNat / 16 with
  | 0x0 => opcodeRow0 lo
  | 0x1 => opcodeRow1 lo
  | 0x2 => opcodeRow2 lo
  | 0x3 => opcodeRow3 lo
  | 0x4 => opcodeRow4 lo
  | 0x5 => opcodeRow5 lo
  | 0x6 => opcodeRow6 lo
  | 0x7 => opcodeRow7 lo
  | 0x8 => opcodeRow8 lo
  | 0x9 => opcodeRow9 lo
  | 0xA => opcodeRowA lo
  | 0xB => opcodeRowB lo
  | 0xC => opcodeRowC lo
  | 0xD => opcodeRowD lo
  | 0xE => opcodeRowE lo
  | 0xF => opcodeRowF lo
  | _ => none

/-- The instruction's length, looked up from its first byte (R114); `none` for an unknown opcode. -/
def opcodeLength (b0 : Byte) : Option Nat := (opcodeForm b0).map Form.length

/-- What a byte list decodes to: an instruction and the bytes after it, or the named reason why not. -/
inductive Decoded where
  | instr (i : Instr) (rest : List Byte)
  | unknownOpcode (b0 : Byte)
  | truncated
deriving DecidableEq, Repr

/-- R110 to R114: the first byte fixes form and length; the operand is the next byte, or the next two, low byte first. -/
def decode : List Byte → Decoded
  | [] => .truncated
  | b0 :: rest =>
    match opcodeForm b0, rest with
    | none, _ => .unknownOpcode b0
    | some (.f1 i), rest => .instr i rest
    | some (.f2 i), b1 :: rest => .instr (i b1) rest
    | some (.f3 i), b1 :: b2 :: rest => .instr (i (joinWord b2 b1)) rest
    | some _, _ => .truncated

/-- Byte `k` of a number, byte 0 the least significant. -/
def byteOf (w k : Nat) : Byte := BitVec.ofNat 8 (w >>> (8 * k))

/-- The longest instruction (R110), as bytes at ascending addresses: the `nbits` low bits of `w`, zeros above them. -/
def wordBytes (nbits w : Nat) : List Byte :=
  let v := w % 2 ^ nbits
  [byteOf v 0, byteOf v 1, byteOf v 2]

/-- The decoder on an instruction numbered as spec/opcode_table.json numbers its bits: the first byte is bits 7..0. -/
def decodeTableWord (nbits w : Nat) : Option Instr :=
  match decode (wordBytes nbits w) with
  | .instr i _ => some i
  | _ => none

/-! ## The opcode table of R120 and the encoder -/

/-- The 56 mnemonics of R120. -/
inductive Mnemonic where
  | lda | ldx | ldy | sta | stx | sty | tax | tay | txa | tya | tsx | txs | pha | php
  | pla | plp | and | ora | eor | bit | adc | sbc | cmp | cpx | cpy | inc | dec | inx
  | iny | dex | dey | asl | lsr | rol | ror | jmp | jsr | rts | bcc | bcs | beq | bne
  | bmi | bpl | bvc | bvs | clc | sec | cli | sei | cld | sed | clv | nop | brk | rti
deriving DecidableEq, Repr

/-- The thirteen addressing modes of R111. -/
inductive Mode where
  | imp | acc | imm | zp | zpx | zpy | rel | abs | absx | absy | ind | indx | indy
deriving DecidableEq, Repr

/-- Operand bytes of a mode (R111). -/
def Mode.operandBytes : Mode → Nat
  | .imp | .acc => 0
  | .imm | .zp | .zpx | .zpy | .rel | .indx | .indy => 1
  | .abs | .absx | .absy | .ind => 2

/-- What a row of R120 adds to its base count: nothing, `+p` (40_step_and_addressing.md R191) or `+b` (R192). -/
inductive Penalty where
  | none | page | branch
deriving DecidableEq, Repr

/-- One row of the Opcode Table (R120): mnemonic, opcode byte, mode, base cycles, penalty. -/
structure OpcodeRow where
  mnemonic : Mnemonic
  opcode : Byte
  mode : Mode
  cycles : Nat
  penalty : Penalty
deriving DecidableEq, Repr

/-- The row of each instruction, from the list of R120. -/
def Instr.row : Instr → OpcodeRow
  | .ldaImm _ => ⟨.lda, 0xA9#8, .imm, 2, .none⟩
  | .ldaZp _ => ⟨.lda, 0xA5#8, .zp, 3, .none⟩
  | .ldaZpX _ => ⟨.lda, 0xB5#8, .zpx, 4, .none⟩
  | .ldaAbs _ => ⟨.lda, 0xAD#8, .abs, 4, .none⟩
  | .ldaAbsX _ => ⟨.lda, 0xBD#8, .absx, 4, .page⟩
  | .ldaAbsY _ => ⟨.lda, 0xB9#8, .absy, 4, .page⟩
  | .ldaIndX _ => ⟨.lda, 0xA1#8, .indx, 6, .none⟩
  | .ldaIndY _ => ⟨.lda, 0xB1#8, .indy, 5, .page⟩
  | .ldxImm _ => ⟨.ldx, 0xA2#8, .imm, 2, .none⟩
  | .ldxZp _ => ⟨.ldx, 0xA6#8, .zp, 3, .none⟩
  | .ldxZpY _ => ⟨.ldx, 0xB6#8, .zpy, 4, .none⟩
  | .ldxAbs _ => ⟨.ldx, 0xAE#8, .abs, 4, .none⟩
  | .ldxAbsY _ => ⟨.ldx, 0xBE#8, .absy, 4, .page⟩
  | .ldyImm _ => ⟨.ldy, 0xA0#8, .imm, 2, .none⟩
  | .ldyZp _ => ⟨.ldy, 0xA4#8, .zp, 3, .none⟩
  | .ldyZpX _ => ⟨.ldy, 0xB4#8, .zpx, 4, .none⟩
  | .ldyAbs _ => ⟨.ldy, 0xAC#8, .abs, 4, .none⟩
  | .ldyAbsX _ => ⟨.ldy, 0xBC#8, .absx, 4, .page⟩
  | .staZp _ => ⟨.sta, 0x85#8, .zp, 3, .none⟩
  | .staZpX _ => ⟨.sta, 0x95#8, .zpx, 4, .none⟩
  | .staAbs _ => ⟨.sta, 0x8D#8, .abs, 4, .none⟩
  | .staAbsX _ => ⟨.sta, 0x9D#8, .absx, 5, .none⟩
  | .staAbsY _ => ⟨.sta, 0x99#8, .absy, 5, .none⟩
  | .staIndX _ => ⟨.sta, 0x81#8, .indx, 6, .none⟩
  | .staIndY _ => ⟨.sta, 0x91#8, .indy, 6, .none⟩
  | .stxZp _ => ⟨.stx, 0x86#8, .zp, 3, .none⟩
  | .stxZpY _ => ⟨.stx, 0x96#8, .zpy, 4, .none⟩
  | .stxAbs _ => ⟨.stx, 0x8E#8, .abs, 4, .none⟩
  | .styZp _ => ⟨.sty, 0x84#8, .zp, 3, .none⟩
  | .styZpX _ => ⟨.sty, 0x94#8, .zpx, 4, .none⟩
  | .styAbs _ => ⟨.sty, 0x8C#8, .abs, 4, .none⟩
  | .tax => ⟨.tax, 0xAA#8, .imp, 2, .none⟩
  | .tay => ⟨.tay, 0xA8#8, .imp, 2, .none⟩
  | .txa => ⟨.txa, 0x8A#8, .imp, 2, .none⟩
  | .tya => ⟨.tya, 0x98#8, .imp, 2, .none⟩
  | .tsx => ⟨.tsx, 0xBA#8, .imp, 2, .none⟩
  | .txs => ⟨.txs, 0x9A#8, .imp, 2, .none⟩
  | .pha => ⟨.pha, 0x48#8, .imp, 3, .none⟩
  | .php => ⟨.php, 0x08#8, .imp, 3, .none⟩
  | .pla => ⟨.pla, 0x68#8, .imp, 4, .none⟩
  | .plp => ⟨.plp, 0x28#8, .imp, 4, .none⟩
  | .andImm _ => ⟨.and, 0x29#8, .imm, 2, .none⟩
  | .andZp _ => ⟨.and, 0x25#8, .zp, 3, .none⟩
  | .andZpX _ => ⟨.and, 0x35#8, .zpx, 4, .none⟩
  | .andAbs _ => ⟨.and, 0x2D#8, .abs, 4, .none⟩
  | .andAbsX _ => ⟨.and, 0x3D#8, .absx, 4, .page⟩
  | .andAbsY _ => ⟨.and, 0x39#8, .absy, 4, .page⟩
  | .andIndX _ => ⟨.and, 0x21#8, .indx, 6, .none⟩
  | .andIndY _ => ⟨.and, 0x31#8, .indy, 5, .page⟩
  | .oraImm _ => ⟨.ora, 0x09#8, .imm, 2, .none⟩
  | .oraZp _ => ⟨.ora, 0x05#8, .zp, 3, .none⟩
  | .oraZpX _ => ⟨.ora, 0x15#8, .zpx, 4, .none⟩
  | .oraAbs _ => ⟨.ora, 0x0D#8, .abs, 4, .none⟩
  | .oraAbsX _ => ⟨.ora, 0x1D#8, .absx, 4, .page⟩
  | .oraAbsY _ => ⟨.ora, 0x19#8, .absy, 4, .page⟩
  | .oraIndX _ => ⟨.ora, 0x01#8, .indx, 6, .none⟩
  | .oraIndY _ => ⟨.ora, 0x11#8, .indy, 5, .page⟩
  | .eorImm _ => ⟨.eor, 0x49#8, .imm, 2, .none⟩
  | .eorZp _ => ⟨.eor, 0x45#8, .zp, 3, .none⟩
  | .eorZpX _ => ⟨.eor, 0x55#8, .zpx, 4, .none⟩
  | .eorAbs _ => ⟨.eor, 0x4D#8, .abs, 4, .none⟩
  | .eorAbsX _ => ⟨.eor, 0x5D#8, .absx, 4, .page⟩
  | .eorAbsY _ => ⟨.eor, 0x59#8, .absy, 4, .page⟩
  | .eorIndX _ => ⟨.eor, 0x41#8, .indx, 6, .none⟩
  | .eorIndY _ => ⟨.eor, 0x51#8, .indy, 5, .page⟩
  | .bitZp _ => ⟨.bit, 0x24#8, .zp, 3, .none⟩
  | .bitAbs _ => ⟨.bit, 0x2C#8, .abs, 4, .none⟩
  | .adcImm _ => ⟨.adc, 0x69#8, .imm, 2, .none⟩
  | .adcZp _ => ⟨.adc, 0x65#8, .zp, 3, .none⟩
  | .adcZpX _ => ⟨.adc, 0x75#8, .zpx, 4, .none⟩
  | .adcAbs _ => ⟨.adc, 0x6D#8, .abs, 4, .none⟩
  | .adcAbsX _ => ⟨.adc, 0x7D#8, .absx, 4, .page⟩
  | .adcAbsY _ => ⟨.adc, 0x79#8, .absy, 4, .page⟩
  | .adcIndX _ => ⟨.adc, 0x61#8, .indx, 6, .none⟩
  | .adcIndY _ => ⟨.adc, 0x71#8, .indy, 5, .page⟩
  | .sbcImm _ => ⟨.sbc, 0xE9#8, .imm, 2, .none⟩
  | .sbcZp _ => ⟨.sbc, 0xE5#8, .zp, 3, .none⟩
  | .sbcZpX _ => ⟨.sbc, 0xF5#8, .zpx, 4, .none⟩
  | .sbcAbs _ => ⟨.sbc, 0xED#8, .abs, 4, .none⟩
  | .sbcAbsX _ => ⟨.sbc, 0xFD#8, .absx, 4, .page⟩
  | .sbcAbsY _ => ⟨.sbc, 0xF9#8, .absy, 4, .page⟩
  | .sbcIndX _ => ⟨.sbc, 0xE1#8, .indx, 6, .none⟩
  | .sbcIndY _ => ⟨.sbc, 0xF1#8, .indy, 5, .page⟩
  | .cmpImm _ => ⟨.cmp, 0xC9#8, .imm, 2, .none⟩
  | .cmpZp _ => ⟨.cmp, 0xC5#8, .zp, 3, .none⟩
  | .cmpZpX _ => ⟨.cmp, 0xD5#8, .zpx, 4, .none⟩
  | .cmpAbs _ => ⟨.cmp, 0xCD#8, .abs, 4, .none⟩
  | .cmpAbsX _ => ⟨.cmp, 0xDD#8, .absx, 4, .page⟩
  | .cmpAbsY _ => ⟨.cmp, 0xD9#8, .absy, 4, .page⟩
  | .cmpIndX _ => ⟨.cmp, 0xC1#8, .indx, 6, .none⟩
  | .cmpIndY _ => ⟨.cmp, 0xD1#8, .indy, 5, .page⟩
  | .cpxImm _ => ⟨.cpx, 0xE0#8, .imm, 2, .none⟩
  | .cpxZp _ => ⟨.cpx, 0xE4#8, .zp, 3, .none⟩
  | .cpxAbs _ => ⟨.cpx, 0xEC#8, .abs, 4, .none⟩
  | .cpyImm _ => ⟨.cpy, 0xC0#8, .imm, 2, .none⟩
  | .cpyZp _ => ⟨.cpy, 0xC4#8, .zp, 3, .none⟩
  | .cpyAbs _ => ⟨.cpy, 0xCC#8, .abs, 4, .none⟩
  | .incZp _ => ⟨.inc, 0xE6#8, .zp, 5, .none⟩
  | .incZpX _ => ⟨.inc, 0xF6#8, .zpx, 6, .none⟩
  | .incAbs _ => ⟨.inc, 0xEE#8, .abs, 6, .none⟩
  | .incAbsX _ => ⟨.inc, 0xFE#8, .absx, 7, .none⟩
  | .decZp _ => ⟨.dec, 0xC6#8, .zp, 5, .none⟩
  | .decZpX _ => ⟨.dec, 0xD6#8, .zpx, 6, .none⟩
  | .decAbs _ => ⟨.dec, 0xCE#8, .abs, 6, .none⟩
  | .decAbsX _ => ⟨.dec, 0xDE#8, .absx, 7, .none⟩
  | .inx => ⟨.inx, 0xE8#8, .imp, 2, .none⟩
  | .iny => ⟨.iny, 0xC8#8, .imp, 2, .none⟩
  | .dex => ⟨.dex, 0xCA#8, .imp, 2, .none⟩
  | .dey => ⟨.dey, 0x88#8, .imp, 2, .none⟩
  | .aslAcc => ⟨.asl, 0x0A#8, .acc, 2, .none⟩
  | .aslZp _ => ⟨.asl, 0x06#8, .zp, 5, .none⟩
  | .aslZpX _ => ⟨.asl, 0x16#8, .zpx, 6, .none⟩
  | .aslAbs _ => ⟨.asl, 0x0E#8, .abs, 6, .none⟩
  | .aslAbsX _ => ⟨.asl, 0x1E#8, .absx, 7, .none⟩
  | .lsrAcc => ⟨.lsr, 0x4A#8, .acc, 2, .none⟩
  | .lsrZp _ => ⟨.lsr, 0x46#8, .zp, 5, .none⟩
  | .lsrZpX _ => ⟨.lsr, 0x56#8, .zpx, 6, .none⟩
  | .lsrAbs _ => ⟨.lsr, 0x4E#8, .abs, 6, .none⟩
  | .lsrAbsX _ => ⟨.lsr, 0x5E#8, .absx, 7, .none⟩
  | .rolAcc => ⟨.rol, 0x2A#8, .acc, 2, .none⟩
  | .rolZp _ => ⟨.rol, 0x26#8, .zp, 5, .none⟩
  | .rolZpX _ => ⟨.rol, 0x36#8, .zpx, 6, .none⟩
  | .rolAbs _ => ⟨.rol, 0x2E#8, .abs, 6, .none⟩
  | .rolAbsX _ => ⟨.rol, 0x3E#8, .absx, 7, .none⟩
  | .rorAcc => ⟨.ror, 0x6A#8, .acc, 2, .none⟩
  | .rorZp _ => ⟨.ror, 0x66#8, .zp, 5, .none⟩
  | .rorZpX _ => ⟨.ror, 0x76#8, .zpx, 6, .none⟩
  | .rorAbs _ => ⟨.ror, 0x6E#8, .abs, 6, .none⟩
  | .rorAbsX _ => ⟨.ror, 0x7E#8, .absx, 7, .none⟩
  | .jmpAbs _ => ⟨.jmp, 0x4C#8, .abs, 3, .none⟩
  | .jmpInd _ => ⟨.jmp, 0x6C#8, .ind, 5, .none⟩
  | .jsr _ => ⟨.jsr, 0x20#8, .abs, 6, .none⟩
  | .rts => ⟨.rts, 0x60#8, .imp, 6, .none⟩
  | .bcc _ => ⟨.bcc, 0x90#8, .rel, 2, .branch⟩
  | .bcs _ => ⟨.bcs, 0xB0#8, .rel, 2, .branch⟩
  | .beq _ => ⟨.beq, 0xF0#8, .rel, 2, .branch⟩
  | .bne _ => ⟨.bne, 0xD0#8, .rel, 2, .branch⟩
  | .bmi _ => ⟨.bmi, 0x30#8, .rel, 2, .branch⟩
  | .bpl _ => ⟨.bpl, 0x10#8, .rel, 2, .branch⟩
  | .bvc _ => ⟨.bvc, 0x50#8, .rel, 2, .branch⟩
  | .bvs _ => ⟨.bvs, 0x70#8, .rel, 2, .branch⟩
  | .clc => ⟨.clc, 0x18#8, .imp, 2, .none⟩
  | .sec => ⟨.sec, 0x38#8, .imp, 2, .none⟩
  | .cli => ⟨.cli, 0x58#8, .imp, 2, .none⟩
  | .sei => ⟨.sei, 0x78#8, .imp, 2, .none⟩
  | .cld => ⟨.cld, 0xD8#8, .imp, 2, .none⟩
  | .sed => ⟨.sed, 0xF8#8, .imp, 2, .none⟩
  | .clv => ⟨.clv, 0xB8#8, .imp, 2, .none⟩
  | .nop => ⟨.nop, 0xEA#8, .imp, 2, .none⟩
  | .brk => ⟨.brk, 0x00#8, .imp, 7, .none⟩
  | .rti => ⟨.rti, 0x40#8, .imp, 6, .none⟩

/-- The operand bytes that follow the opcode (R112, R113): low byte before high byte. -/
def Instr.operand : Instr → List Byte
  | .ldaImm v => [v]
  | .ldaZp d => [d]
  | .ldaZpX d => [d]
  | .ldaAbs w => [lo8 w, hi8 w]
  | .ldaAbsX w => [lo8 w, hi8 w]
  | .ldaAbsY w => [lo8 w, hi8 w]
  | .ldaIndX d => [d]
  | .ldaIndY d => [d]
  | .ldxImm v => [v]
  | .ldxZp d => [d]
  | .ldxZpY d => [d]
  | .ldxAbs w => [lo8 w, hi8 w]
  | .ldxAbsY w => [lo8 w, hi8 w]
  | .ldyImm v => [v]
  | .ldyZp d => [d]
  | .ldyZpX d => [d]
  | .ldyAbs w => [lo8 w, hi8 w]
  | .ldyAbsX w => [lo8 w, hi8 w]
  | .staZp d => [d]
  | .staZpX d => [d]
  | .staAbs w => [lo8 w, hi8 w]
  | .staAbsX w => [lo8 w, hi8 w]
  | .staAbsY w => [lo8 w, hi8 w]
  | .staIndX d => [d]
  | .staIndY d => [d]
  | .stxZp d => [d]
  | .stxZpY d => [d]
  | .stxAbs w => [lo8 w, hi8 w]
  | .styZp d => [d]
  | .styZpX d => [d]
  | .styAbs w => [lo8 w, hi8 w]
  | .tax => []
  | .tay => []
  | .txa => []
  | .tya => []
  | .tsx => []
  | .txs => []
  | .pha => []
  | .php => []
  | .pla => []
  | .plp => []
  | .andImm v => [v]
  | .andZp d => [d]
  | .andZpX d => [d]
  | .andAbs w => [lo8 w, hi8 w]
  | .andAbsX w => [lo8 w, hi8 w]
  | .andAbsY w => [lo8 w, hi8 w]
  | .andIndX d => [d]
  | .andIndY d => [d]
  | .oraImm v => [v]
  | .oraZp d => [d]
  | .oraZpX d => [d]
  | .oraAbs w => [lo8 w, hi8 w]
  | .oraAbsX w => [lo8 w, hi8 w]
  | .oraAbsY w => [lo8 w, hi8 w]
  | .oraIndX d => [d]
  | .oraIndY d => [d]
  | .eorImm v => [v]
  | .eorZp d => [d]
  | .eorZpX d => [d]
  | .eorAbs w => [lo8 w, hi8 w]
  | .eorAbsX w => [lo8 w, hi8 w]
  | .eorAbsY w => [lo8 w, hi8 w]
  | .eorIndX d => [d]
  | .eorIndY d => [d]
  | .bitZp d => [d]
  | .bitAbs w => [lo8 w, hi8 w]
  | .adcImm v => [v]
  | .adcZp d => [d]
  | .adcZpX d => [d]
  | .adcAbs w => [lo8 w, hi8 w]
  | .adcAbsX w => [lo8 w, hi8 w]
  | .adcAbsY w => [lo8 w, hi8 w]
  | .adcIndX d => [d]
  | .adcIndY d => [d]
  | .sbcImm v => [v]
  | .sbcZp d => [d]
  | .sbcZpX d => [d]
  | .sbcAbs w => [lo8 w, hi8 w]
  | .sbcAbsX w => [lo8 w, hi8 w]
  | .sbcAbsY w => [lo8 w, hi8 w]
  | .sbcIndX d => [d]
  | .sbcIndY d => [d]
  | .cmpImm v => [v]
  | .cmpZp d => [d]
  | .cmpZpX d => [d]
  | .cmpAbs w => [lo8 w, hi8 w]
  | .cmpAbsX w => [lo8 w, hi8 w]
  | .cmpAbsY w => [lo8 w, hi8 w]
  | .cmpIndX d => [d]
  | .cmpIndY d => [d]
  | .cpxImm v => [v]
  | .cpxZp d => [d]
  | .cpxAbs w => [lo8 w, hi8 w]
  | .cpyImm v => [v]
  | .cpyZp d => [d]
  | .cpyAbs w => [lo8 w, hi8 w]
  | .incZp d => [d]
  | .incZpX d => [d]
  | .incAbs w => [lo8 w, hi8 w]
  | .incAbsX w => [lo8 w, hi8 w]
  | .decZp d => [d]
  | .decZpX d => [d]
  | .decAbs w => [lo8 w, hi8 w]
  | .decAbsX w => [lo8 w, hi8 w]
  | .inx => []
  | .iny => []
  | .dex => []
  | .dey => []
  | .aslAcc => []
  | .aslZp d => [d]
  | .aslZpX d => [d]
  | .aslAbs w => [lo8 w, hi8 w]
  | .aslAbsX w => [lo8 w, hi8 w]
  | .lsrAcc => []
  | .lsrZp d => [d]
  | .lsrZpX d => [d]
  | .lsrAbs w => [lo8 w, hi8 w]
  | .lsrAbsX w => [lo8 w, hi8 w]
  | .rolAcc => []
  | .rolZp d => [d]
  | .rolZpX d => [d]
  | .rolAbs w => [lo8 w, hi8 w]
  | .rolAbsX w => [lo8 w, hi8 w]
  | .rorAcc => []
  | .rorZp d => [d]
  | .rorZpX d => [d]
  | .rorAbs w => [lo8 w, hi8 w]
  | .rorAbsX w => [lo8 w, hi8 w]
  | .jmpAbs w => [lo8 w, hi8 w]
  | .jmpInd w => [lo8 w, hi8 w]
  | .jsr w => [lo8 w, hi8 w]
  | .rts => []
  | .bcc d => [d]
  | .bcs d => [d]
  | .beq d => [d]
  | .bne d => [d]
  | .bmi d => [d]
  | .bpl d => [d]
  | .bvc d => [d]
  | .bvs d => [d]
  | .clc => []
  | .sec => []
  | .cli => []
  | .sei => []
  | .cld => []
  | .sed => []
  | .clv => []
  | .nop => []
  | .brk => []
  | .rti => []

/-- The instruction's length in bytes (R111). -/
def Instr.length (i : Instr) : Nat := 1 + i.row.mode.operandBytes

/-- The bytes of an instruction at ascending addresses (R112). -/
def encode (i : Instr) : List Byte := i.row.opcode :: i.operand

end Sys2Proof
end

