-- ==== Sys2Proof/Machine/Flags.lean ====
section
/-! DEFINITION. ProcessorStatus bit by bit (spec/10_state.md R25 to R34) and the ALU/Flag Unit: every flag computation of the
instruction set as a pure function of the old `P` and the operands, giving the result and the new `P`
(43_logic_bit.md, 44_arithmetic_compare.md, 45_incdec_shift.md). -/

namespace Sys2Proof.Machine

/-! ## The bits of P (R25) -/

/-- `P.C`, bit 0 (R26). -/
def flagC (p : Byte) : Bool := p.getLsbD 0
/-- `P.Z`, bit 1 (R27). -/
def flagZ (p : Byte) : Bool := p.getLsbD 1
/-- `P.I`, bit 2 (R28). -/
def flagI (p : Byte) : Bool := p.getLsbD 2
/-- `P.D`, bit 3 (R29). -/
def flagD (p : Byte) : Bool := p.getLsbD 3
/-- `P.B`, bit 4 (R30). -/
def flagB (p : Byte) : Bool := p.getLsbD 4
/-- `P.U`, bit 5 (R30). -/
def flagU (p : Byte) : Bool := p.getLsbD 5
/-- `P.V`, bit 6 (R31). -/
def flagV (p : Byte) : Bool := p.getLsbD 6
/-- `P.N`, bit 7 (R33). -/
def flagN (p : Byte) : Bool := p.getLsbD 7

/-- `P` with the bit of `mask` set to `b`, the other bits as they were. -/
def putFlag (mask : Byte) (b : Bool) (p : Byte) : Byte := if b then p ||| mask else p &&& ~~~mask

/-- `P.C <- b`. -/
def setC (b : Bool) (p : Byte) : Byte := putFlag 0x01#8 b p
/-- `P.Z <- b`. -/
def setZ (b : Bool) (p : Byte) : Byte := putFlag 0x02#8 b p
/-- `P.I <- b`. -/
def setI (b : Bool) (p : Byte) : Byte := putFlag 0x04#8 b p
/-- `P.D <- b`. -/
def setD (b : Bool) (p : Byte) : Byte := putFlag 0x08#8 b p
/-- `P.V <- b`. -/
def setV (b : Bool) (p : Byte) : Byte := putFlag 0x40#8 b p
/-- `P.N <- b`. -/
def setN (b : Bool) (p : Byte) : Byte := putFlag 0x80#8 b p

/-- `SetNZ(v)` (00_scope.md R8). -/
def setNZ (v : Byte) (p : Byte) : Byte := setN v.msb (setZ (v == 0x00#8) p)

/-- The byte BRK and PHP push: Break = 1, Unused = 1 (R32). -/
def brokenCopy (p : Byte) : Byte := p ||| 0x30#8

/-- The byte a hardware interrupt pushes: Break = 0, Unused = 1 (R32). -/
def interruptCopy (p : Byte) : Byte := (p &&& 0xCF#8) ||| 0x20#8

/-- What PLP and RTI make of the pulled byte `v`: bits 4 and 5 of the live register stay (R30; 42_stack.md R234). -/
def pulledStatus (v p : Byte) : Byte := (v &&& 0xCF#8) ||| (p &&& 0x30#8)

/-! ## Logic (43_logic_bit.md R241 to R244) -/

/-- AND (R241). -/
def andAlu (p a m : Byte) : Byte × Byte := let r := a &&& m; (r, setNZ r p)
/-- ORA (R242). -/
def oraAlu (p a m : Byte) : Byte × Byte := let r := a ||| m; (r, setNZ r p)
/-- EOR (R243). -/
def eorAlu (p a m : Byte) : Byte × Byte := let r := a ^^^ m; (r, setNZ r p)
/-- BIT (R244): Z from `A & M`, N and V from bits 7 and 6 of the operand. -/
def bitAlu (p a m : Byte) : Byte := setV (m.getLsbD 6) (setN (m.getLsbD 7) (setZ ((a &&& m) == 0x00#8) p))

/-! ## Arithmetic and compare (44_arithmetic_compare.md R251 to R257) -/

/-- ADC with `P.D = 0` (R251). -/
def adcBinary (p a m : Byte) : Byte × Byte :=
  let s := a.toNat + m.toNat + (flagC p).toNat
  let r := BitVec.ofNat 8 s
  let v := ((a ^^^ r) &&& (m ^^^ r) &&& 0x80#8) != 0x00#8
  (r, setNZ r (setV v (setC (decide (256 ≤ s)) p)))

/-- ADC with `P.D = 1` (R252): Z of the binary sum, N and V of the sum before the high-digit correction. -/
def adcDecimal (p a m : Byte) : Byte × Byte :=
  let c := (flagC p).toNat
  let z := (a.toNat + m.toNat + c) % 256 == 0
  let low := a.toNat % 16 + m.toNat % 16 + c
  let al := if 0x0A ≤ low then (low + 0x06) % 16 + 0x10 else low
  let ah := a &&& 0xF0#8
  let mh := m &&& 0xF0#8
  let t := ah.toNat + mh.toNat + al
  let ts := ah.toInt + mh.toInt + (al : Int)
  let n := (BitVec.ofNat 8 t).msb
  let v := decide (ts < -128 ∨ 127 < ts)
  let t' := if 0xA0 ≤ t then t + 0x60 else t
  (BitVec.ofNat 8 t', setN n (setV v (setZ z (setC (decide (0x100 ≤ t')) p))))

/-- ADC: `P.D` chooses the algorithm (R251, R252). -/
def adcAlu (p a m : Byte) : Byte × Byte := if flagD p then adcDecimal p a m else adcBinary p a m

/-- SBC's difference and its four flags, which are the binary ones in both modes (R253). -/
def sbcBinary (p a m : Byte) : Byte × Byte :=
  let d : Int := (a.toNat : Int) - m.toNat - (1 - (flagC p).toNat)
  let r := BitVec.ofInt 8 d
  let v := ((a ^^^ m) &&& (a ^^^ r) &&& 0x80#8) != 0x00#8
  (r, setNZ r (setV v (setC (decide (0 ≤ d)) p)))

/-- The value SBC writes to `A` with `P.D = 1` (R254); `& 0x0F` of an integer is its remainder modulo 16 (00_scope.md R7). -/
def sbcDecimalValue (p a m : Byte) : Byte :=
  let low : Int := (a.toNat % 16 : Nat) - (m.toNat % 16 : Nat) + (flagC p).toNat - 1
  let al := if low < 0 then (low - 0x06) % 16 - 0x10 else low
  let t : Int := (a &&& 0xF0#8).toNat - (m &&& 0xF0#8).toNat + al
  BitVec.ofInt 8 (if t < 0 then t - 0x60 else t)

/-- SBC (R253, R254). -/
def sbcAlu (p a m : Byte) : Byte × Byte :=
  let b := sbcBinary p a m
  if flagD p then (sbcDecimalValue p a m, b.2) else b

/-- CMP, CPX, CPY (R255 to R257): C when the register is not below the operand, Z when equal, N bit 7 of the difference. -/
def compareAlu (p r m : Byte) : Byte :=
  setN (r - m).msb (setZ (r == m) (setC (decide (m.toNat ≤ r.toNat)) p))

/-! ## Increment, decrement, shift, rotate (45_incdec_shift.md R271 to R280) -/

/-- INC, INX, INY (R271, R273, R274). -/
def incAlu (p v : Byte) : Byte × Byte := let r := v + 1#8; (r, setNZ r p)
/-- DEC, DEX, DEY (R272, R275, R276). -/
def decAlu (p v : Byte) : Byte × Byte := let r := v - 1#8; (r, setNZ r p)
/-- ASL (R277): C is the old bit 7. -/
def aslAlu (p v : Byte) : Byte × Byte := let r := v <<< 1; (r, setNZ r (setC (v.getLsbD 7) p))
/-- LSR (R278): C is the old bit 0. -/
def lsrAlu (p v : Byte) : Byte × Byte := let r := v >>> 1; (r, setNZ r (setC (v.getLsbD 0) p))
/-- ROL (R279): the old carry into bit 0. -/
def rolAlu (p v : Byte) : Byte × Byte :=
  let r := (v <<< 1) ||| (if flagC p then 0x01#8 else 0x00#8)
  (r, setNZ r (setC (v.getLsbD 7) p))
/-- ROR (R280): the old carry into bit 7. -/
def rorAlu (p v : Byte) : Byte × Byte :=
  let r := (v >>> 1) ||| (if flagC p then 0x80#8 else 0x00#8)
  (r, setNZ r (setC (v.getLsbD 0) p))

end Sys2Proof.Machine
end

