-- ==== Sys2Proof/Machine/State.lean ====
section
/-! DEFINITION. The state of the machine (spec/10_state.md R20), the reasons a step can stop (60_exceptions.md R345 to R347), and the
machine right after reset (R44; 70_reset_and_hazards.md R380 to R383). Plain data throughout. -/

namespace Sys2Proof.Machine

/-- The contents of one backing array: byte cells by index, in the one canonical form `Memory.wf` states.
An index not listed reads as 0x00 (log 4). -/
abbrev Memory := List Host.Cell

/-- The canonical form: indexes strictly rise and no cell holds the value an unlisted index reads as. -/
abbrev Memory.wf (m : Memory) : Prop := m.Pairwise (fun c d => c.1 < d.1) ∧ ∀ c ∈ m, c.2 ≠ 0x00#8

/-- `Store[s]`: a backing array of fixed length (R39). -/
structure Store where
  size : Nat
  cells : Memory
deriving DecidableEq, Repr

/-- A store's cells are canonical and lie inside its length. -/
abbrev Store.wf (t : Store) : Prop := Memory.wf t.cells ∧ ∀ c ∈ t.cells, c.1 < t.size

/-- `ES`, the cumulative counters (R41); no instruction reads them. -/
structure ExecState where
  cycles : Nat := 0
  instructions : Nat := 0
  lastOpcode : Byte := 0x00#8
  unknownCount : Nat := 0
  lastHandled : Bool := false
deriving DecidableEq, Repr

/-- The complete state of R20, and the parameters of 00_scope.md R5 that a step is given through it (log 1). -/
structure State where
  /-- `A`, the accumulator (R21). -/
  a : Byte
  /-- `X` (R21). -/
  x : Byte
  /-- `Y` (R21). -/
  y : Byte
  /-- `SP`, an index into page 1 (R22). -/
  sp : Byte
  /-- `PC` (R23). -/
  pc : Word
  /-- `P`, all eight bits stored (R25). -/
  p : Byte
  /-- The pending IRQ latch (R36). -/
  irq : Bool
  /-- The pending NMI latch (R36). -/
  nmi : Bool
  /-- The index of the active configuration (R38). -/
  cfg : Nat
  /-- The backing arrays (R39). -/
  stores : List Store
  /-- The platform's state (R40). -/
  plat : Plat
  /-- ExecState (R41). -/
  es : ExecState
  /-- The parameters (R5), which no step writes. -/
  params : Params
deriving DecidableEq, Repr

/-- Every store is canonical. -/
abbrev State.memoryWf (s : State) : Prop := ∀ t ∈ s.stores, Store.wf t

/-- The two kinds of access (R346). -/
inductive AccessKind where
  | read | write
deriving DecidableEq, Repr

/-- The model faults of R10 and R345 to R347, each terminal. `left` is the state the fault leaves behind
(40_step_and_addressing.md R156), about which no claim should be made (R348, 93_implementation_defined.md U10). All are safe: the
hardware's own emulated machine stops there too. -/
inductive Fault where
  /-- Raised by a fetch of a byte outside the Opcode Table in strict mode only (R343, R345). Safe. -/
  | unknownOpcode (byte : Byte) (pc : Word) (left : State)
  /-- Raised by any read or write of an address the active configuration does not bind for it (R346). Safe. -/
  | unboundAccess (addr : Word) (cfg : Nat) (kind : AccessKind) (left : State)
  /-- Raised by `SetMemoryConfiguration` with an index outside `0 .. C-1`, from the host or a callback (R347). Safe. -/
  | configIndexOutOfRange (index : Int) (left : State)
deriving DecidableEq, Repr

/-- Why the model has no meaning to give. -/
inductive Refusal where
  /-- Raised by an arm of `exec` whose instruction has no meaning yet; no arm does now. Safe. -/
  | notModelled (mnemonic : String)
  /-- Raised by an access, or by a callback's or observer's store write, that names a byte of no store: a parameter R64 and
  93_implementation_defined.md U9, U12 do not admit (log 8). Safe. -/
  | inadmissibleStoreByte (store index : Nat)
deriving DecidableEq, Repr

/-- The simple generic machine's wiring (20_memory.md R61, `C = 1`): one configuration, all 65536 addresses bound to store 0 as
RAM (log 4). -/
def allRam : Params := { configs := [[.mapRam 0 0 0 Config.addressSpace]] }

/-- The machine right after construction and `Reset` with the default parameters (R44, R380 to R383): the reset vector is read
from a store that lists nothing, so PC is 0x0000 (logs 3 to 6). -/
def State.reset : State where
  a := 0x00#8
  x := 0x00#8
  y := 0x00#8
  sp := 0xFD#8
  pc := 0x0000#16
  p := 0x24#8
  irq := false
  nmi := false
  cfg := 0
  stores := [{ size := Config.addressSpace, cells := [] }]
  plat := 0
  es := {}
  params := allRam

end Sys2Proof.Machine
end

