-- ==== Sys2Proof/Machine/Ops.lean ====
section
/-! DEFINITION. The named operations over state: store bytes, bindings, callbacks, the access primitives (spec/20_memory.md), the stack
(40_step_and_addressing.md R180 to R183), taking a trap and returning from one (60_exceptions.md R336; 47_flags_system.md R319, R320),
the poll (R333), the observer window (R155), fetching (R151, R152), the unknown-opcode event (R343, R344), bookkeeping (R153, R154) and
Reset (70_reset_and_hazards.md R380). -/

namespace Sys2Proof.Machine

/-- What an action of the machine comes to: a value, a fault or a refusal (R10). -/
abbrev Result (α : Type) := Host.Outcome α Fault Refusal

/-- Do `r`, then `f` with what it gave; a fault or refusal ends the whole at once (R156). -/
def andThen {α β : Type} (r : Result α) (f : α → Result β) : Result β :=
  match r with
  | .next v => f v
  | .fault e => .fault e
  | .refused e => .refused e

/-! ## Store bytes (R39, R65) -/

/-- The byte at an index; an unlisted index reads as 0x00 (log 4). -/
def Memory.get (m : Memory) (a : Nat) : Byte :=
  match m with
  | [] => 0x00#8
  | c :: rest => if c.1 = a then c.2 else Memory.get rest a

/-- `m` with no cell for `a`. -/
def Memory.erase (m : Memory) (a : Nat) : Memory := m.filter fun c => c.1 != a

/-- `m` with the cell `(a, v)` before the first cell of a greater index. -/
def Memory.insert (m : Memory) (a : Nat) (v : Byte) : Memory :=
  match m with
  | [] => [(a, v)]
  | c :: rest => if a < c.1 then (a, v) :: c :: rest else c :: Memory.insert rest a v

/-- `m` with `v` at `a`, in canonical form: the value an unlisted index reads as is not listed. -/
def Memory.set (m : Memory) (a : Nat) (v : Byte) : Memory :=
  if v = 0x00#8 then Memory.erase m a else Memory.insert (Memory.erase m a) a v

/-- `Store[s][i]`, if there is such a byte (R39). -/
def storeByte? (ts : List Store) (s i : Nat) : Option Byte :=
  match ts[s]? with
  | none => none
  | some t => if i < t.size then some (Memory.get t.cells i) else none

/-- `Store[s][i] <- v`, if there is such a byte (R39). -/
def storeWrite? (ts : List Store) (s i : Nat) (v : Byte) : Option (List Store) :=
  match ts[s]? with
  | none => none
  | some t => if i < t.size then some (ts.set s { t with cells := Memory.set t.cells i v }) else none

/-- A store write of a callback, the observer or another view of the store (R68, R155, R392). -/
def writeStoreByte (w : StoreWrite) (s : State) : Result State :=
  match storeWrite? s.stores w.store w.index w.value with
  | some ts => .next { s with stores := ts }
  | none => .refused (.inadmissibleStoreByte w.store w.index)

/-- Store writes in list order (R68). -/
def writeStoreBytes (ws : List StoreWrite) (s : State) : Result State :=
  match ws with
  | [] => .next s
  | w :: rest => andThen (writeStoreByte w s) (writeStoreBytes rest)

/-! ## Bindings (R63, R64) -/

/-- What a binding operation puts into the read table at `a`, if it touches it (R64). -/
def BindOp.readAt (a : Nat) : BindOp → Option ReadBinding
  | .mapRam a0 s o n => if a0 ≤ a ∧ a < a0 + n then some (.array s (o + (a - a0))) else none
  | .mapRom a0 s o n => if a0 ≤ a ∧ a < a0 + n then some (.array s (o + (a - a0))) else none
  | .mapReader a0 f => if a = a0 then some (.reader f) else none
  | .mapWriter _ _ => none

/-- What a binding operation puts into the write table at `a`, if it touches it (R64). -/
def BindOp.writeAt (a : Nat) : BindOp → Option WriteBinding
  | .mapRam a0 s o n => if a0 ≤ a ∧ a < a0 + n then some (.array s (o + (a - a0))) else none
  | .mapRom a0 _ _ n => if a0 ≤ a ∧ a < a0 + n then some .drop else none
  | .mapReader _ _ => none
  | .mapWriter a0 g => if a = a0 then some (.writer g) else none

/-- `RB[c][a]`: the operations in order, the later overriding the earlier (R63). -/
def readTable (ops : List BindOp) (a : Nat) : ReadBinding :=
  ops.foldl (fun b op => (BindOp.readAt a op).getD b) .unbound

/-- `WB[c][a]` (R63). -/
def writeTable (ops : List BindOp) (a : Nat) : WriteBinding :=
  ops.foldl (fun b op => (BindOp.writeAt a op).getD b) .unbound

/-- The binding operations of the active configuration (R62). -/
def activeOps (s : State) : List BindOp := s.params.configs.getD s.cfg []

/-- `RB[cfg][a]`. -/
def readBinding (s : State) (a : Word) : ReadBinding := readTable (activeOps s) a.toNat

/-- `WB[cfg][a]`. -/
def writeBinding (s : State) (a : Word) : WriteBinding := writeTable (activeOps s) a.toNat

/-! ## The bank-switch controller and the callbacks (R68, R80) -/

/-- `SetMemoryConfiguration(i)` (R80). -/
def setMemoryConfiguration (i : Int) (s : State) : Result State :=
  if 0 ≤ i ∧ i < s.params.count then .next { s with cfg := i.toNat }
  else .fault (.configIndexOutOfRange i s)

/-- The configuration switch of a callback, if it makes one. -/
def switchIfAsked (i : Option Int) (s : State) : Result State :=
  match i with
  | none => .next s
  | some i => setMemoryConfiguration i s

/-- A callback's effects, in R68's order: store writes, configuration, IRQ, NMI. -/
def applyEffects (e : Effects) (s : State) : Result State :=
  andThen (writeStoreBytes e.storeWrites s) fun s1 =>
  andThen (switchIfAsked e.setCfg s1) fun s2 =>
  .next { s2 with irq := s2.irq || e.raiseIrq, nmi := s2.nmi || e.raiseNmi }

/-- What Reader `f` answers in platform state `plat`: the tabulated reply, else the free value (R68, log 5). -/
def readerReply (pf : Platform) (f : Nat) (plat : Plat) : ReaderReply :=
  match pf.readers.find? fun r => r.reader == f && r.plat == plat with
  | some r => r.reply
  | none => Config.reader f plat

/-- What Writer `g` answers to `v` in platform state `plat` (R68, log 5). -/
def writerReply (pf : Platform) (g : Nat) (plat : Plat) (v : Byte) : WriterReply :=
  match pf.writers.find? fun r => r.writer == g && r.plat == plat && r.value == v with
  | some r => r.reply
  | none => Config.writer g plat v

/-- The move of observer `o` told `cycles` in platform state `plat`, the stores holding `cells` (R155, R392, log 5). -/
def observerReply (pf : Platform) (o : Nat) (plat : Plat) (cycles : Nat) (cells : List (List Host.Cell)) : ObserverReply :=
  match pf.observers.find? fun r => r.observer == o && r.plat == plat && r.cycles == cycles with
  | some r => r.reply
  | none => Config.observer o plat cycles cells

/-! ## The access primitives (R70, R71, R75, R96) -/

/-- `MemRead(a, 1)` (R70). -/
def memRead (a : Word) (s : State) : Result (Byte × State) :=
  match readBinding s a with
  | .unbound => .fault (.unboundAccess a s.cfg .read s)
  | .array st i =>
    match storeByte? s.stores st i with
    | some v => .next (v, s)
    | none => .refused (.inadmissibleStoreByte st i)
  | .reader f =>
    let r := readerReply s.params.platform f s.plat
    andThen (applyEffects r.effects { s with plat := r.plat }) fun s1 => .next (r.value, s1)

/-- `MemWrite(a, 1, v)` (R71); a ROM write is dropped (R66). -/
def memWrite (a : Word) (v : Byte) (s : State) : Result State :=
  match writeBinding s a with
  | .unbound => .fault (.unboundAccess a s.cfg .write s)
  | .array st i => writeStoreByte ⟨st, i, v⟩ s
  | .drop => .next s
  | .writer g =>
    let r := writerReply s.params.platform g s.plat v
    applyEffects r.effects { s with plat := r.plat }

/-- `MemRead(a, 2)`: low byte first, at `a`; then the high byte at `a + 1` (R75). -/
def memReadWord (a : Word) (s : State) : Result (Word × State) :=
  andThen (memRead a s) fun (lo, s1) =>
  andThen (memRead (a + 1#16) s1) fun (hi, s2) =>
  .next (joinWord hi lo, s2)

/-- `MemWrite(a, 2, w)`: low byte first (R9, R96). -/
def memWriteWord (a w : Word) (s : State) : Result State :=
  andThen (memWrite a (lo8 w) s) fun s1 => memWrite (a + 1#16) (hi8 w) s1

/-! ## The stack (40_step_and_addressing.md R180 to R183) -/

/-- `0x0100 + SP` (R22). -/
def stackAddress (sp : Byte) : Word := 0x0100#16 + zext16 sp

/-- `Push(v)`: write, then decrement (R180). -/
def push (v : Byte) (s : State) : Result State :=
  andThen (memWrite (stackAddress s.sp) v s) fun s1 => .next { s1 with sp := s1.sp - 1#8 }

/-- `Pull()`: increment, then read (R181). -/
def pull (s : State) : Result (Byte × State) :=
  let sp := s.sp + 1#8
  memRead (stackAddress sp) { s with sp := sp }

/-- `PushWord(w)`: high byte first (R182). -/
def pushWord (w : Word) (s : State) : Result State := andThen (push (hi8 w) s) (push (lo8 w))

/-- `PullWord()`: low byte first (R183). -/
def pullWord (s : State) : Result (Word × State) :=
  andThen (pull s) fun (lo, s1) =>
  andThen (pull s1) fun (hi, s2) =>
  .next (joinWord hi lo, s2)

/-! ## Taking a trap and returning from it (60_exceptions.md R336; 47_flags_system.md R319, R320) -/

/-- The push and vector-load sequence all traps share: the return address, a copy of `P`, `P.I <- 1`, then the vector. -/
def takeTrap (ret : Word) (copy : Byte) (vector : Word) (s : State) : Result State :=
  andThen (pushWord ret s) fun s1 =>
  andThen (push copy s1) fun s2 =>
  andThen (memReadWord vector { s2 with p := setI true s2.p }) fun (w, s3) =>
  .next { s3 with pc := w }

/-- `InterruptEntry(vec)` (R336) with its bookkeeping (R338). -/
def interruptEntry (vector : Word) (s : State) : Result State :=
  andThen (takeTrap s.pc (interruptCopy s.p) vector s) fun s1 =>
  .next { s1 with es := { s1.es with cycles := s1.es.cycles + s1.params.interruptCycles } }

/-- RTI's three pulls (R320): `P`, then the address, resumed exactly. -/
def returnFromTrap (s : State) : Result State :=
  andThen (pull s) fun (v, s1) =>
  andThen (pullWord { s1 with p := pulledStatus v s1.p }) fun (w, s2) =>
  .next { s2 with pc := w }

/-- The interrupt poll (R333, R334): NMI before IRQ, at most one entry, a masked IRQ stays pending. -/
def poll (s : State) : Result State :=
  if s.nmi then andThen (interruptEntry Config.nmiVector s) fun s1 => .next { s1 with nmi := false }
  else if s.irq && !flagI s.p then andThen (interruptEntry Config.irqVector s) fun s1 => .next { s1 with irq := false }
  else .next s

/-- The observer window (R155): the observer, if one is installed, is told the instruction's cycles. DESIGN CHOICE, safe: its reply also
replaces the platform's state, which R68, R155 and R392 do not give it (log 11). -/
def observe (cycles : Nat) (s : State) : Result State :=
  match s.params.observer with
  | none => .next s
  | some o =>
    let r := observerReply s.params.platform o s.plat cycles (s.stores.map Store.cells)
    andThen (writeStoreBytes r.storeWrites { s with plat := r.plat }) fun s1 =>
    .next { s1 with irq := r.setIrq.getD s1.irq, nmi := s1.nmi || r.raiseNmi }

/-! ## Bookkeeping of a known instruction (R153, R154) -/

/-- "Advance `PC` by instruction length" (R24, R153). -/
def advance (i : Instr) (s : State) : State := { s with pc := s.pc + BitVec.ofNat 16 i.length }

/-- The update of ExecState after a known instruction that took `extra` cycles of penalty (R154). -/
def retire (i : Instr) (extra : Nat) (s : State) : State :=
  { s with es :=
    { s.es with
      cycles := s.es.cycles + (i.row.cycles + extra)
      instructions := s.es.instructions + 1
      lastOpcode := i.row.opcode
      lastHandled := true } }

/-- The end of an instruction that is no control transfer. -/
def finish (i : Instr) (extra : Nat) (s : State) : Result State := .next (retire i extra (advance i s))

/-- `p` of R191: one cycle on a page cross, for the rows the table marks. -/
def pagePenalty (i : Instr) (crossed : Bool) : Nat := if i.row.penalty = .page ∧ crossed then 1 else 0

/-! ## Fetch and the unknown-opcode event (R151, R152, R343, R344) -/

/-- What a fetch brings: a known instruction, or a byte outside the Opcode Table. -/
inductive Fetched where
  | known (i : Instr)
  | unknown (b0 : Byte)
deriving DecidableEq, Repr

/-- `n` operand bytes at ascending addresses from `a` (R115). -/
def fetchBytes (n : Nat) (a : Word) (s : State) : Result (List Byte × State) :=
  match n with
  | 0 => .next ([], s)
  | k + 1 =>
    andThen (memRead a s) fun (b, s1) =>
    andThen (fetchBytes k (a + 1#16) s1) fun (bs, s2) =>
    .next (b :: bs, s2)

/-- The opcode byte at `PC`, then exactly the operand bytes its mode has, decoded (R115, R151, R152). -/
def fetch (s : State) : Result (Fetched × State) :=
  andThen (memRead s.pc s) fun (b0, s1) =>
  match opcodeLength b0 with
  | none => .next (.unknown b0, s1)
  | some n =>
    andThen (fetchBytes (n - 1) (s.pc + 1#16) s1) fun (bs, s2) =>
    match decode (b0 :: bs) with
    | .instr i _ => .next (.known i, s2)
    | _ => .next (.unknown b0, s2)

/-- The unknown-opcode event: a fault in strict mode (R343), a counted one-byte skip in tolerant mode (R344). -/
def unknownOpcode (b0 : Byte) (s : State) : Result State :=
  let seen := { s.es with unknownCount := s.es.unknownCount + 1, lastOpcode := b0, lastHandled := false }
  if s.params.unknownThrows then .fault (.unknownOpcode b0 s.pc { s with es := seen })
  else .next { s with
    pc := s.pc + 1#16
    es := { seen with cycles := seen.cycles + s.params.unknownOpcodeCycles } }

/-! ## Reset and placing bytes -/

/-- `Reset(mem)` (70_reset_and_hazards.md R380, R382). -/
def resetCpu (s : State) : Result State :=
  andThen (memReadWord Config.resetVector s) fun (w, s1) =>
  .next { s1 with
    pc := w
    a := s1.params.resetA
    x := s1.params.resetX
    y := s1.params.resetY
    sp := s1.params.resetSp
    p := s1.params.resetP }

/-- `bytes` placed at ascending addresses from `a` into the store bytes the read table names there, for the host's questions about
one instruction (log 7); an address that is bound to no store byte is left alone. -/
def placeBytes (bytes : List Byte) (a : Word) (s : State) : State :=
  match bytes with
  | [] => s
  | b :: rest =>
    let s1 :=
      match readBinding s a with
      | .array st i =>
        match storeWrite? s.stores st i b with
        | some ts => { s with stores := ts }
        | none => s
      | _ => s
    placeBytes rest (a + 1#16) s1

end Sys2Proof.Machine
end

