-- ==== Sys2Proof/Machine/Operands.lean ====
section
/-! DEFINITION. The addressing-mode resolver (spec/40_step_and_addressing.md R160 to R175) and the shapes of the instruction set: how an
instruction reads its operand, stores, modifies memory in place, works on registers, or branches (41_load_store_transfer.md R200,
45_incdec_shift.md R270, 46_control_transfer.md R294). -/

namespace Sys2Proof.Machine

/-- The memory modes with their assembled operands (R113). -/
inductive Ea where
  | zp (d : Byte)
  | zpX (d : Byte)
  | zpY (d : Byte)
  | abs (w : Word)
  | absX (w : Word)
  | absY (w : Word)
  | indX (d : Byte)
  | indY (d : Byte)
deriving DecidableEq, Repr

/-- A value operand: immediate or in memory (R163, R175). -/
inductive Src where
  | imm (v : Byte)
  | mem (e : Ea)
deriving DecidableEq, Repr

/-- What the resolver yields: the effective address and the page-cross flag (R160). -/
structure Resolved where
  ea : Word
  crossed : Bool
deriving DecidableEq, Repr

/-- An indexed address and whether it left the page of its base (R169, R170, R173). -/
def indexed (base : Word) (index : Byte) : Resolved :=
  let ea := base + zext16 index
  ⟨ea, hi8 base != hi8 ea⟩

/-- A pointer in page 0, its second byte wrapping within page 0 (R172, R173). -/
def zeroPagePointer (z : Byte) (s : State) : Result (Word × State) :=
  andThen (memRead (zext16 z) s) fun (lo, s1) =>
  andThen (memRead (zext16 (z + 1#8)) s1) fun (hi, s2) =>
  .next (joinWord hi lo, s2)

/-- The resolver for the memory modes (R164 to R166, R168 to R170, R172, R173). -/
def resolve (e : Ea) (s : State) : Result (Resolved × State) :=
  match e with
  | .zp d => .next (⟨zext16 d, false⟩, s)
  | .zpX d => .next (⟨zext16 (d + s.x), false⟩, s)
  | .zpY d => .next (⟨zext16 (d + s.y), false⟩, s)
  | .abs w => .next (⟨w, false⟩, s)
  | .absX w => .next (indexed w s.x, s)
  | .absY w => .next (indexed w s.y, s)
  | .indX d => andThen (zeroPagePointer (d + s.x) s) fun (w, s1) => .next (⟨w, false⟩, s1)
  | .indY d => andThen (zeroPagePointer d s) fun (w, s1) => .next (indexed w s1.y, s1)

/-- The second address of `JMP (ind)`: the next byte of the same page (R171). -/
def samePageNext (ptr : Word) : Word := joinWord (hi8 ptr) (lo8 ptr + 1#8)

/-- Indirect (R171), with the page-wrap defect. -/
def resolveIndirect (ptr : Word) (s : State) : Result (Word × State) :=
  andThen (memRead ptr s) fun (lo, s1) =>
  andThen (memRead (samePageNext ptr) s1) fun (hi, s2) =>
  .next (joinWord hi lo, s2)

/-- The address after a two-byte instruction at `pc0` (R167). -/
def branchNext (pc0 : Word) : Word := pc0 + 2#16

/-- Relative (R167). -/
def branchTarget (pc0 : Word) (d : Byte) : Word := branchNext pc0 + sext16 d

/-- `Operand(mode)` (R175) with the page-cross flag. -/
def operand (src : Src) (s : State) : Result (Byte × Bool × State) :=
  match src with
  | .imm v => .next (v, false, s)
  | .mem e =>
    andThen (resolve e s) fun (r, s1) =>
    andThen (memRead r.ea s1) fun (v, s2) =>
    .next (v, r.crossed, s2)

/-! ## Shapes -/

/-- An instruction that reads one value operand and changes registers and flags by `effect` (R200, R240, R250). -/
def readShape (i : Instr) (src : Src) (effect : Byte → State → State) (s : State) : Result State :=
  andThen (operand src s) fun (v, crossed, s1) => finish i (pagePenalty i crossed) (effect v s1)

/-- A store of `v`: one write at `EA` (R204 to R206). -/
def storeShape (i : Instr) (e : Ea) (v : Byte) (s : State) : Result State :=
  andThen (resolve e s) fun (r, s1) =>
  andThen (memWrite r.ea v s1) fun s2 =>
  finish i 0 s2

/-- Read-modify-write (R270): one read and one write of `EA`, the flags from the value written. C takes its new value before the write
and Z and N after it (45_incdec_shift.md R277 to R280), so a write that faults leaves the new C (R156). -/
def modifyShape (i : Instr) (e : Ea) (alu : Byte → Byte → Byte × Byte) (s : State) : Result State :=
  andThen (resolve e s) fun (r, s1) =>
  andThen (memRead r.ea s1) fun (v, s2) =>
  let out := alu s2.p v
  andThen (memWrite r.ea out.1 { s2 with p := setC (flagC out.2) s2.p }) fun s3 =>
  finish i 0 { s3 with p := out.2 }

/-- An instruction on registers and flags alone (R161, R162). -/
def registerShape (i : Instr) (effect : State → State) (s : State) : Result State := finish i 0 (effect s)

/-- The eight branches (R294) and their cycles (R192). -/
def branchShape (i : Instr) (cond : Bool) (d : Byte) (s : State) : Result State :=
  let next := branchNext s.pc
  let target := branchTarget s.pc d
  if cond then .next (retire i (if hi8 next = hi8 target then 1 else 2) { s with pc := target })
  else .next (retire i 0 { s with pc := next })

/-! ## Register and flag effects -/

/-- `A <- v; SetNZ(v)`. -/
def loadA (v : Byte) (s : State) : State := { s with a := v, p := setNZ v s.p }
/-- `X <- v; SetNZ(v)`. -/
def loadX (v : Byte) (s : State) : State := { s with x := v, p := setNZ v s.p }
/-- `Y <- v; SetNZ(v)`. -/
def loadY (v : Byte) (s : State) : State := { s with y := v, p := setNZ v s.p }

/-- `A` and `P` from an operation of the ALU on `P`, `A` and the operand. -/
def accumulate (alu : Byte → Byte → Byte → Byte × Byte) (m : Byte) (s : State) : State :=
  let out := alu s.p s.a m
  { s with a := out.1, p := out.2 }

/-- `A` and `P` from a one-operand operation on `A` (Accumulator mode, R162). -/
def modifyA (alu : Byte → Byte → Byte × Byte) (s : State) : State :=
  let out := alu s.p s.a
  { s with a := out.1, p := out.2 }

/-- `X` and `P` from a one-operand operation on `X`. -/
def modifyX (alu : Byte → Byte → Byte × Byte) (s : State) : State :=
  let out := alu s.p s.x
  { s with x := out.1, p := out.2 }

/-- `Y` and `P` from a one-operand operation on `Y`. -/
def modifyY (alu : Byte → Byte → Byte × Byte) (s : State) : State :=
  let out := alu s.p s.y
  { s with y := out.1, p := out.2 }

/-- `P <- f(P)`. -/
def status (f : Byte → Byte) (s : State) : State := { s with p := f s.p }

end Sys2Proof.Machine
end

