-- ==== Sys2Proof/Machine/Arithmetic.lean ====
section
/-! DEFINITION. The meanings of ADC, SBC and the compares (spec/44_arithmetic_compare.md R250 to R257): one definition per opcode, each the whole instruction
after its fetch, bookkeeping included. -/

namespace Sys2Proof.Machine

/-- ADC immediate (R251). -/
def execAdcImm (v : Byte) (s : State) : Result State := readShape (.adcImm v) (.imm v) (accumulate adcAlu) s

/-- ADC zero page (R251). -/
def execAdcZp (d : Byte) (s : State) : Result State := readShape (.adcZp d) (.mem (.zp d)) (accumulate adcAlu) s

/-- ADC zero page,X (R251). -/
def execAdcZpX (d : Byte) (s : State) : Result State := readShape (.adcZpX d) (.mem (.zpX d)) (accumulate adcAlu) s

/-- ADC absolute (R251). -/
def execAdcAbs (w : Word) (s : State) : Result State := readShape (.adcAbs w) (.mem (.abs w)) (accumulate adcAlu) s

/-- ADC absolute,X (R251). -/
def execAdcAbsX (w : Word) (s : State) : Result State := readShape (.adcAbsX w) (.mem (.absX w)) (accumulate adcAlu) s

/-- ADC absolute,Y (R251). -/
def execAdcAbsY (w : Word) (s : State) : Result State := readShape (.adcAbsY w) (.mem (.absY w)) (accumulate adcAlu) s

/-- ADC (zp,X) (R251). -/
def execAdcIndX (d : Byte) (s : State) : Result State := readShape (.adcIndX d) (.mem (.indX d)) (accumulate adcAlu) s

/-- ADC (zp),Y (R251). -/
def execAdcIndY (d : Byte) (s : State) : Result State := readShape (.adcIndY d) (.mem (.indY d)) (accumulate adcAlu) s

/-- SBC immediate (R253). -/
def execSbcImm (v : Byte) (s : State) : Result State := readShape (.sbcImm v) (.imm v) (accumulate sbcAlu) s

/-- SBC zero page (R253). -/
def execSbcZp (d : Byte) (s : State) : Result State := readShape (.sbcZp d) (.mem (.zp d)) (accumulate sbcAlu) s

/-- SBC zero page,X (R253). -/
def execSbcZpX (d : Byte) (s : State) : Result State := readShape (.sbcZpX d) (.mem (.zpX d)) (accumulate sbcAlu) s

/-- SBC absolute (R253). -/
def execSbcAbs (w : Word) (s : State) : Result State := readShape (.sbcAbs w) (.mem (.abs w)) (accumulate sbcAlu) s

/-- SBC absolute,X (R253). -/
def execSbcAbsX (w : Word) (s : State) : Result State := readShape (.sbcAbsX w) (.mem (.absX w)) (accumulate sbcAlu) s

/-- SBC absolute,Y (R253). -/
def execSbcAbsY (w : Word) (s : State) : Result State := readShape (.sbcAbsY w) (.mem (.absY w)) (accumulate sbcAlu) s

/-- SBC (zp,X) (R253). -/
def execSbcIndX (d : Byte) (s : State) : Result State := readShape (.sbcIndX d) (.mem (.indX d)) (accumulate sbcAlu) s

/-- SBC (zp),Y (R253). -/
def execSbcIndY (d : Byte) (s : State) : Result State := readShape (.sbcIndY d) (.mem (.indY d)) (accumulate sbcAlu) s

/-- CMP immediate (R255). -/
def execCmpImm (v : Byte) (s : State) : Result State :=
  readShape (.cmpImm v) (.imm v) (fun m t => status (fun p => compareAlu p t.a m) t) s

/-- CMP zero page (R255). -/
def execCmpZp (d : Byte) (s : State) : Result State :=
  readShape (.cmpZp d) (.mem (.zp d)) (fun m t => status (fun p => compareAlu p t.a m) t) s

/-- CMP zero page,X (R255). -/
def execCmpZpX (d : Byte) (s : State) : Result State :=
  readShape (.cmpZpX d) (.mem (.zpX d)) (fun m t => status (fun p => compareAlu p t.a m) t) s

/-- CMP absolute (R255). -/
def execCmpAbs (w : Word) (s : State) : Result State :=
  readShape (.cmpAbs w) (.mem (.abs w)) (fun m t => status (fun p => compareAlu p t.a m) t) s

/-- CMP absolute,X (R255). -/
def execCmpAbsX (w : Word) (s : State) : Result State :=
  readShape (.cmpAbsX w) (.mem (.absX w)) (fun m t => status (fun p => compareAlu p t.a m) t) s

/-- CMP absolute,Y (R255). -/
def execCmpAbsY (w : Word) (s : State) : Result State :=
  readShape (.cmpAbsY w) (.mem (.absY w)) (fun m t => status (fun p => compareAlu p t.a m) t) s

/-- CMP (zp,X) (R255). -/
def execCmpIndX (d : Byte) (s : State) : Result State :=
  readShape (.cmpIndX d) (.mem (.indX d)) (fun m t => status (fun p => compareAlu p t.a m) t) s

/-- CMP (zp),Y (R255). -/
def execCmpIndY (d : Byte) (s : State) : Result State :=
  readShape (.cmpIndY d) (.mem (.indY d)) (fun m t => status (fun p => compareAlu p t.a m) t) s

/-- CPX immediate (R256). -/
def execCpxImm (v : Byte) (s : State) : Result State :=
  readShape (.cpxImm v) (.imm v) (fun m t => status (fun p => compareAlu p t.x m) t) s

/-- CPX zero page (R256). -/
def execCpxZp (d : Byte) (s : State) : Result State :=
  readShape (.cpxZp d) (.mem (.zp d)) (fun m t => status (fun p => compareAlu p t.x m) t) s

/-- CPX absolute (R256). -/
def execCpxAbs (w : Word) (s : State) : Result State :=
  readShape (.cpxAbs w) (.mem (.abs w)) (fun m t => status (fun p => compareAlu p t.x m) t) s

/-- CPY immediate (R257). -/
def execCpyImm (v : Byte) (s : State) : Result State :=
  readShape (.cpyImm v) (.imm v) (fun m t => status (fun p => compareAlu p t.y m) t) s

/-- CPY zero page (R257). -/
def execCpyZp (d : Byte) (s : State) : Result State :=
  readShape (.cpyZp d) (.mem (.zp d)) (fun m t => status (fun p => compareAlu p t.y m) t) s

/-- CPY absolute (R257). -/
def execCpyAbs (w : Word) (s : State) : Result State :=
  readShape (.cpyAbs w) (.mem (.abs w)) (fun m t => status (fun p => compareAlu p t.y m) t) s

end Sys2Proof.Machine
end

