-- ==== Sys2Proof/Machine/Control.lean ====
section
/-! DEFINITION. The meanings of jumps, call, return and branches (spec/46_control_transfer.md R290 to R302): one definition per opcode, each the whole instruction
after its fetch, bookkeeping included. -/

namespace Sys2Proof.Machine

/-- JMP absolute (R291). -/
def execJmpAbs (w : Word) (s : State) : Result State := .next (retire (.jmpAbs w) 0 { s with pc := w })

/-- JMP indirect (R291). -/
def execJmpInd (w : Word) (s : State) : Result State :=
  andThen (resolveIndirect w s) fun (t, s1) => .next (retire (.jmpInd w) 0 { s1 with pc := t })

/-- JSR absolute (R292). -/
def execJsr (w : Word) (s : State) : Result State :=
  andThen (pushWord (s.pc + 2#16) s) fun s1 => .next (retire (.jsr w) 0 { s1 with pc := w })

/-- RTS implied (R293). -/
def execRts (s : State) : Result State := andThen (pullWord s) fun (w, s1) => .next (retire .rts 0 { s1 with pc := w + 1#16 })

/-- BCC relative (R295). -/
def execBcc (d : Byte) (s : State) : Result State := branchShape (.bcc d) (!flagC s.p) d s

/-- BCS relative (R296). -/
def execBcs (d : Byte) (s : State) : Result State := branchShape (.bcs d) (flagC s.p) d s

/-- BEQ relative (R297). -/
def execBeq (d : Byte) (s : State) : Result State := branchShape (.beq d) (flagZ s.p) d s

/-- BNE relative (R298). -/
def execBne (d : Byte) (s : State) : Result State := branchShape (.bne d) (!flagZ s.p) d s

/-- BMI relative (R299). -/
def execBmi (d : Byte) (s : State) : Result State := branchShape (.bmi d) (flagN s.p) d s

/-- BPL relative (R300). -/
def execBpl (d : Byte) (s : State) : Result State := branchShape (.bpl d) (!flagN s.p) d s

/-- BVC relative (R301). -/
def execBvc (d : Byte) (s : State) : Result State := branchShape (.bvc d) (!flagV s.p) d s

/-- BVS relative (R302). -/
def execBvs (d : Byte) (s : State) : Result State := branchShape (.bvs d) (flagV s.p) d s

end Sys2Proof.Machine
end

