-- ==== Sys2Proof/Machine/LoadStore.lean ====
section
/-! DEFINITION. The meanings of loads, stores and register transfers (spec/41_load_store_transfer.md R200 to R212): one definition per opcode, each the whole instruction
after its fetch, bookkeeping included. -/

namespace Sys2Proof.Machine

/-- LDA immediate (R201). -/
def execLdaImm (v : Byte) (s : State) : Result State := readShape (.ldaImm v) (.imm v) loadA s

/-- LDA zero page (R201). -/
def execLdaZp (d : Byte) (s : State) : Result State := readShape (.ldaZp d) (.mem (.zp d)) loadA s

/-- LDA zero page,X (R201). -/
def execLdaZpX (d : Byte) (s : State) : Result State := readShape (.ldaZpX d) (.mem (.zpX d)) loadA s

/-- LDA absolute (R201). -/
def execLdaAbs (w : Word) (s : State) : Result State := readShape (.ldaAbs w) (.mem (.abs w)) loadA s

/-- LDA absolute,X (R201). -/
def execLdaAbsX (w : Word) (s : State) : Result State := readShape (.ldaAbsX w) (.mem (.absX w)) loadA s

/-- LDA absolute,Y (R201). -/
def execLdaAbsY (w : Word) (s : State) : Result State := readShape (.ldaAbsY w) (.mem (.absY w)) loadA s

/-- LDA (zp,X) (R201). -/
def execLdaIndX (d : Byte) (s : State) : Result State := readShape (.ldaIndX d) (.mem (.indX d)) loadA s

/-- LDA (zp),Y (R201). -/
def execLdaIndY (d : Byte) (s : State) : Result State := readShape (.ldaIndY d) (.mem (.indY d)) loadA s

/-- LDX immediate (R202). -/
def execLdxImm (v : Byte) (s : State) : Result State := readShape (.ldxImm v) (.imm v) loadX s

/-- LDX zero page (R202). -/
def execLdxZp (d : Byte) (s : State) : Result State := readShape (.ldxZp d) (.mem (.zp d)) loadX s

/-- LDX zero page,Y (R202). -/
def execLdxZpY (d : Byte) (s : State) : Result State := readShape (.ldxZpY d) (.mem (.zpY d)) loadX s

/-- LDX absolute (R202). -/
def execLdxAbs (w : Word) (s : State) : Result State := readShape (.ldxAbs w) (.mem (.abs w)) loadX s

/-- LDX absolute,Y (R202). -/
def execLdxAbsY (w : Word) (s : State) : Result State := readShape (.ldxAbsY w) (.mem (.absY w)) loadX s

/-- LDY immediate (R203). -/
def execLdyImm (v : Byte) (s : State) : Result State := readShape (.ldyImm v) (.imm v) loadY s

/-- LDY zero page (R203). -/
def execLdyZp (d : Byte) (s : State) : Result State := readShape (.ldyZp d) (.mem (.zp d)) loadY s

/-- LDY zero page,X (R203). -/
def execLdyZpX (d : Byte) (s : State) : Result State := readShape (.ldyZpX d) (.mem (.zpX d)) loadY s

/-- LDY absolute (R203). -/
def execLdyAbs (w : Word) (s : State) : Result State := readShape (.ldyAbs w) (.mem (.abs w)) loadY s

/-- LDY absolute,X (R203). -/
def execLdyAbsX (w : Word) (s : State) : Result State := readShape (.ldyAbsX w) (.mem (.absX w)) loadY s

/-- STA zero page (R204). -/
def execStaZp (d : Byte) (s : State) : Result State := storeShape (.staZp d) (.zp d) s.a s

/-- STA zero page,X (R204). -/
def execStaZpX (d : Byte) (s : State) : Result State := storeShape (.staZpX d) (.zpX d) s.a s

/-- STA absolute (R204). -/
def execStaAbs (w : Word) (s : State) : Result State := storeShape (.staAbs w) (.abs w) s.a s

/-- STA absolute,X (R204). -/
def execStaAbsX (w : Word) (s : State) : Result State := storeShape (.staAbsX w) (.absX w) s.a s

/-- STA absolute,Y (R204). -/
def execStaAbsY (w : Word) (s : State) : Result State := storeShape (.staAbsY w) (.absY w) s.a s

/-- STA (zp,X) (R204). -/
def execStaIndX (d : Byte) (s : State) : Result State := storeShape (.staIndX d) (.indX d) s.a s

/-- STA (zp),Y (R204). -/
def execStaIndY (d : Byte) (s : State) : Result State := storeShape (.staIndY d) (.indY d) s.a s

/-- STX zero page (R205). -/
def execStxZp (d : Byte) (s : State) : Result State := storeShape (.stxZp d) (.zp d) s.x s

/-- STX zero page,Y (R205). -/
def execStxZpY (d : Byte) (s : State) : Result State := storeShape (.stxZpY d) (.zpY d) s.x s

/-- STX absolute (R205). -/
def execStxAbs (w : Word) (s : State) : Result State := storeShape (.stxAbs w) (.abs w) s.x s

/-- STY zero page (R206). -/
def execStyZp (d : Byte) (s : State) : Result State := storeShape (.styZp d) (.zp d) s.y s

/-- STY zero page,X (R206). -/
def execStyZpX (d : Byte) (s : State) : Result State := storeShape (.styZpX d) (.zpX d) s.y s

/-- STY absolute (R206). -/
def execStyAbs (w : Word) (s : State) : Result State := storeShape (.styAbs w) (.abs w) s.y s

/-- TAX implied (R207). -/
def execTax (s : State) : Result State := registerShape .tax (fun t => loadX t.a t) s

/-- TAY implied (R208). -/
def execTay (s : State) : Result State := registerShape .tay (fun t => loadY t.a t) s

/-- TXA implied (R209). -/
def execTxa (s : State) : Result State := registerShape .txa (fun t => loadA t.x t) s

/-- TYA implied (R210). -/
def execTya (s : State) : Result State := registerShape .tya (fun t => loadA t.y t) s

/-- TSX implied (R211). -/
def execTsx (s : State) : Result State := registerShape .tsx (fun t => loadX t.sp t) s

/-- TXS implied (R212). -/
def execTxs (s : State) : Result State := registerShape .txs (fun t => { t with sp := t.x }) s

end Sys2Proof.Machine
end

