-- ==== Sys2Proof/Machine/Logic.lean ====
section
/-! DEFINITION. The meanings of AND, ORA, EOR and BIT (spec/43_logic_bit.md R240 to R244): one definition per opcode, each the whole instruction
after its fetch, bookkeeping included. -/

namespace Sys2Proof.Machine

/-- AND immediate (R241). -/
def execAndImm (v : Byte) (s : State) : Result State := readShape (.andImm v) (.imm v) (accumulate andAlu) s

/-- AND zero page (R241). -/
def execAndZp (d : Byte) (s : State) : Result State := readShape (.andZp d) (.mem (.zp d)) (accumulate andAlu) s

/-- AND zero page,X (R241). -/
def execAndZpX (d : Byte) (s : State) : Result State := readShape (.andZpX d) (.mem (.zpX d)) (accumulate andAlu) s

/-- AND absolute (R241). -/
def execAndAbs (w : Word) (s : State) : Result State := readShape (.andAbs w) (.mem (.abs w)) (accumulate andAlu) s

/-- AND absolute,X (R241). -/
def execAndAbsX (w : Word) (s : State) : Result State := readShape (.andAbsX w) (.mem (.absX w)) (accumulate andAlu) s

/-- AND absolute,Y (R241). -/
def execAndAbsY (w : Word) (s : State) : Result State := readShape (.andAbsY w) (.mem (.absY w)) (accumulate andAlu) s

/-- AND (zp,X) (R241). -/
def execAndIndX (d : Byte) (s : State) : Result State := readShape (.andIndX d) (.mem (.indX d)) (accumulate andAlu) s

/-- AND (zp),Y (R241). -/
def execAndIndY (d : Byte) (s : State) : Result State := readShape (.andIndY d) (.mem (.indY d)) (accumulate andAlu) s

/-- ORA immediate (R242). -/
def execOraImm (v : Byte) (s : State) : Result State := readShape (.oraImm v) (.imm v) (accumulate oraAlu) s

/-- ORA zero page (R242). -/
def execOraZp (d : Byte) (s : State) : Result State := readShape (.oraZp d) (.mem (.zp d)) (accumulate oraAlu) s

/-- ORA zero page,X (R242). -/
def execOraZpX (d : Byte) (s : State) : Result State := readShape (.oraZpX d) (.mem (.zpX d)) (accumulate oraAlu) s

/-- ORA absolute (R242). -/
def execOraAbs (w : Word) (s : State) : Result State := readShape (.oraAbs w) (.mem (.abs w)) (accumulate oraAlu) s

/-- ORA absolute,X (R242). -/
def execOraAbsX (w : Word) (s : State) : Result State := readShape (.oraAbsX w) (.mem (.absX w)) (accumulate oraAlu) s

/-- ORA absolute,Y (R242). -/
def execOraAbsY (w : Word) (s : State) : Result State := readShape (.oraAbsY w) (.mem (.absY w)) (accumulate oraAlu) s

/-- ORA (zp,X) (R242). -/
def execOraIndX (d : Byte) (s : State) : Result State := readShape (.oraIndX d) (.mem (.indX d)) (accumulate oraAlu) s

/-- ORA (zp),Y (R242). -/
def execOraIndY (d : Byte) (s : State) : Result State := readShape (.oraIndY d) (.mem (.indY d)) (accumulate oraAlu) s

/-- EOR immediate (R243). -/
def execEorImm (v : Byte) (s : State) : Result State := readShape (.eorImm v) (.imm v) (accumulate eorAlu) s

/-- EOR zero page (R243). -/
def execEorZp (d : Byte) (s : State) : Result State := readShape (.eorZp d) (.mem (.zp d)) (accumulate eorAlu) s

/-- EOR zero page,X (R243). -/
def execEorZpX (d : Byte) (s : State) : Result State := readShape (.eorZpX d) (.mem (.zpX d)) (accumulate eorAlu) s

/-- EOR absolute (R243). -/
def execEorAbs (w : Word) (s : State) : Result State := readShape (.eorAbs w) (.mem (.abs w)) (accumulate eorAlu) s

/-- EOR absolute,X (R243). -/
def execEorAbsX (w : Word) (s : State) : Result State := readShape (.eorAbsX w) (.mem (.absX w)) (accumulate eorAlu) s

/-- EOR absolute,Y (R243). -/
def execEorAbsY (w : Word) (s : State) : Result State := readShape (.eorAbsY w) (.mem (.absY w)) (accumulate eorAlu) s

/-- EOR (zp,X) (R243). -/
def execEorIndX (d : Byte) (s : State) : Result State := readShape (.eorIndX d) (.mem (.indX d)) (accumulate eorAlu) s

/-- EOR (zp),Y (R243). -/
def execEorIndY (d : Byte) (s : State) : Result State := readShape (.eorIndY d) (.mem (.indY d)) (accumulate eorAlu) s

/-- BIT zero page (R244). -/
def execBitZp (d : Byte) (s : State) : Result State :=
  readShape (.bitZp d) (.mem (.zp d)) (fun m t => status (fun p => bitAlu p t.a m) t) s

/-- BIT absolute (R244). -/
def execBitAbs (w : Word) (s : State) : Result State :=
  readShape (.bitAbs w) (.mem (.abs w)) (fun m t => status (fun p => bitAlu p t.a m) t) s

end Sys2Proof.Machine
end

