-- ==== Sys2Proof/Machine/Shift.lean ====
section
/-! DEFINITION. The meanings of increments, decrements, shifts and rotates (spec/45_incdec_shift.md R270 to R280): one definition per opcode, each the whole instruction
after its fetch, bookkeeping included. -/

namespace Sys2Proof.Machine

/-- INC zero page (R271). -/
def execIncZp (d : Byte) (s : State) : Result State := modifyShape (.incZp d) (.zp d) incAlu s

/-- INC zero page,X (R271). -/
def execIncZpX (d : Byte) (s : State) : Result State := modifyShape (.incZpX d) (.zpX d) incAlu s

/-- INC absolute (R271). -/
def execIncAbs (w : Word) (s : State) : Result State := modifyShape (.incAbs w) (.abs w) incAlu s

/-- INC absolute,X (R271). -/
def execIncAbsX (w : Word) (s : State) : Result State := modifyShape (.incAbsX w) (.absX w) incAlu s

/-- DEC zero page (R272). -/
def execDecZp (d : Byte) (s : State) : Result State := modifyShape (.decZp d) (.zp d) decAlu s

/-- DEC zero page,X (R272). -/
def execDecZpX (d : Byte) (s : State) : Result State := modifyShape (.decZpX d) (.zpX d) decAlu s

/-- DEC absolute (R272). -/
def execDecAbs (w : Word) (s : State) : Result State := modifyShape (.decAbs w) (.abs w) decAlu s

/-- DEC absolute,X (R272). -/
def execDecAbsX (w : Word) (s : State) : Result State := modifyShape (.decAbsX w) (.absX w) decAlu s

/-- INX implied (R273). -/
def execInx (s : State) : Result State := registerShape .inx (modifyX incAlu) s

/-- INY implied (R274). -/
def execIny (s : State) : Result State := registerShape .iny (modifyY incAlu) s

/-- DEX implied (R275). -/
def execDex (s : State) : Result State := registerShape .dex (modifyX decAlu) s

/-- DEY implied (R276). -/
def execDey (s : State) : Result State := registerShape .dey (modifyY decAlu) s

/-- ASL accumulator (R277). -/
def execAslAcc (s : State) : Result State := registerShape .aslAcc (modifyA aslAlu) s

/-- ASL zero page (R277). -/
def execAslZp (d : Byte) (s : State) : Result State := modifyShape (.aslZp d) (.zp d) aslAlu s

/-- ASL zero page,X (R277). -/
def execAslZpX (d : Byte) (s : State) : Result State := modifyShape (.aslZpX d) (.zpX d) aslAlu s

/-- ASL absolute (R277). -/
def execAslAbs (w : Word) (s : State) : Result State := modifyShape (.aslAbs w) (.abs w) aslAlu s

/-- ASL absolute,X (R277). -/
def execAslAbsX (w : Word) (s : State) : Result State := modifyShape (.aslAbsX w) (.absX w) aslAlu s

/-- LSR accumulator (R278). -/
def execLsrAcc (s : State) : Result State := registerShape .lsrAcc (modifyA lsrAlu) s

/-- LSR zero page (R278). -/
def execLsrZp (d : Byte) (s : State) : Result State := modifyShape (.lsrZp d) (.zp d) lsrAlu s

/-- LSR zero page,X (R278). -/
def execLsrZpX (d : Byte) (s : State) : Result State := modifyShape (.lsrZpX d) (.zpX d) lsrAlu s

/-- LSR absolute (R278). -/
def execLsrAbs (w : Word) (s : State) : Result State := modifyShape (.lsrAbs w) (.abs w) lsrAlu s

/-- LSR absolute,X (R278). -/
def execLsrAbsX (w : Word) (s : State) : Result State := modifyShape (.lsrAbsX w) (.absX w) lsrAlu s

/-- ROL accumulator (R279). -/
def execRolAcc (s : State) : Result State := registerShape .rolAcc (modifyA rolAlu) s

/-- ROL zero page (R279). -/
def execRolZp (d : Byte) (s : State) : Result State := modifyShape (.rolZp d) (.zp d) rolAlu s

/-- ROL zero page,X (R279). -/
def execRolZpX (d : Byte) (s : State) : Result State := modifyShape (.rolZpX d) (.zpX d) rolAlu s

/-- ROL absolute (R279). -/
def execRolAbs (w : Word) (s : State) : Result State := modifyShape (.rolAbs w) (.abs w) rolAlu s

/-- ROL absolute,X (R279). -/
def execRolAbsX (w : Word) (s : State) : Result State := modifyShape (.rolAbsX w) (.absX w) rolAlu s

/-- ROR accumulator (R280). -/
def execRorAcc (s : State) : Result State := registerShape .rorAcc (modifyA rorAlu) s

/-- ROR zero page (R280). -/
def execRorZp (d : Byte) (s : State) : Result State := modifyShape (.rorZp d) (.zp d) rorAlu s

/-- ROR zero page,X (R280). -/
def execRorZpX (d : Byte) (s : State) : Result State := modifyShape (.rorZpX d) (.zpX d) rorAlu s

/-- ROR absolute (R280). -/
def execRorAbs (w : Word) (s : State) : Result State := modifyShape (.rorAbs w) (.abs w) rorAlu s

/-- ROR absolute,X (R280). -/
def execRorAbsX (w : Word) (s : State) : Result State := modifyShape (.rorAbsX w) (.absX w) rorAlu s

end Sys2Proof.Machine
end

