-- ==== Sys2Proof/Machine/Stack.lean ====
section
/-! DEFINITION. The meanings of the stack instructions (spec/42_stack.md R230 to R234): one definition per opcode, each the whole instruction
after its fetch, bookkeeping included. -/

namespace Sys2Proof.Machine

/-- PHA implied (R231). -/
def execPha (s : State) : Result State := andThen (push s.a s) (finish .pha 0)

/-- PHP implied (R232). -/
def execPhp (s : State) : Result State := andThen (push (brokenCopy s.p) s) (finish .php 0)

/-- PLA implied (R233). -/
def execPla (s : State) : Result State := andThen (pull s) fun (v, s1) => finish .pla 0 (loadA v s1)

/-- PLP implied (R234). -/
def execPlp (s : State) : Result State := andThen (pull s) fun (v, s1) => finish .plp 0 (status (pulledStatus v) s1)

end Sys2Proof.Machine
end

