-- ==== Sys2Proof/Machine/System.lean ====
section
/-! DEFINITION. The meanings of the flag instructions, NOP, BRK and RTI (spec/47_flags_system.md R310 to R320): one definition per opcode, each the whole instruction
after its fetch, bookkeeping included. -/

namespace Sys2Proof.Machine

/-- CLC implied (R311). -/
def execClc (s : State) : Result State := registerShape .clc (status (setC false)) s

/-- SEC implied (R312). -/
def execSec (s : State) : Result State := registerShape .sec (status (setC true)) s

/-- CLI implied (R313). -/
def execCli (s : State) : Result State := registerShape .cli (status (setI false)) s

/-- SEI implied (R314). -/
def execSei (s : State) : Result State := registerShape .sei (status (setI true)) s

/-- CLD implied (R315). -/
def execCld (s : State) : Result State := registerShape .cld (status (setD false)) s

/-- SED implied (R316). -/
def execSed (s : State) : Result State := registerShape .sed (status (setD true)) s

/-- CLV implied (R317). -/
def execClv (s : State) : Result State := registerShape .clv (status (setV false)) s

/-- NOP implied (R318). -/
def execNop (s : State) : Result State := registerShape .nop (fun t => t) s

/-- BRK implied (R319). -/
def execBrk (s : State) : Result State :=
  andThen (takeTrap (s.pc + 2#16) (brokenCopy s.p) Config.irqVector s) fun s1 => .next (retire .brk 0 s1)

/-- RTI implied (R320). -/
def execRti (s : State) : Result State := andThen (returnFromTrap s) fun s1 => .next (retire .rti 0 s1)

end Sys2Proof.Machine
end

