-- ==== Sys2Proof/Machine/Dispatch.lean ====
section
/-! DEFINITION. One arm per constructor of Instr, each a direct call of its meaning (spec/40_step_and_addressing.md R153). -/

namespace Sys2Proof.Machine

/-- The instruction attempt after its fetch and decode: resolve, execute, advance and account (R153, R154). -/
def exec (i : Instr) (s : State) : Host.Outcome State Fault Refusal :=
  match i with
  -- Load, store and transfer (41_load_store_transfer.md)
  | .ldaImm v => Sys2Proof.Machine.execLdaImm v s
  | .ldaZp d => Sys2Proof.Machine.execLdaZp d s
  | .ldaZpX d => Sys2Proof.Machine.execLdaZpX d s
  | .ldaAbs w => Sys2Proof.Machine.execLdaAbs w s
  | .ldaAbsX w => Sys2Proof.Machine.execLdaAbsX w s
  | .ldaAbsY w => Sys2Proof.Machine.execLdaAbsY w s
  | .ldaIndX d => Sys2Proof.Machine.execLdaIndX d s
  | .ldaIndY d => Sys2Proof.Machine.execLdaIndY d s
  | .ldxImm v => Sys2Proof.Machine.execLdxImm v s
  | .ldxZp d => Sys2Proof.Machine.execLdxZp d s
  | .ldxZpY d => Sys2Proof.Machine.execLdxZpY d s
  | .ldxAbs w => Sys2Proof.Machine.execLdxAbs w s
  | .ldxAbsY w => Sys2Proof.Machine.execLdxAbsY w s
  | .ldyImm v => Sys2Proof.Machine.execLdyImm v s
  | .ldyZp d => Sys2Proof.Machine.execLdyZp d s
  | .ldyZpX d => Sys2Proof.Machine.execLdyZpX d s
  | .ldyAbs w => Sys2Proof.Machine.execLdyAbs w s
  | .ldyAbsX w => Sys2Proof.Machine.execLdyAbsX w s
  | .staZp d => Sys2Proof.Machine.execStaZp d s
  | .staZpX d => Sys2Proof.Machine.execStaZpX d s
  | .staAbs w => Sys2Proof.Machine.execStaAbs w s
  | .staAbsX w => Sys2Proof.Machine.execStaAbsX w s
  | .staAbsY w => Sys2Proof.Machine.execStaAbsY w s
  | .staIndX d => Sys2Proof.Machine.execStaIndX d s
  | .staIndY d => Sys2Proof.Machine.execStaIndY d s
  | .stxZp d => Sys2Proof.Machine.execStxZp d s
  | .stxZpY d => Sys2Proof.Machine.execStxZpY d s
  | .stxAbs w => Sys2Proof.Machine.execStxAbs w s
  | .styZp d => Sys2Proof.Machine.execStyZp d s
  | .styZpX d => Sys2Proof.Machine.execStyZpX d s
  | .styAbs w => Sys2Proof.Machine.execStyAbs w s
  | .tax => Sys2Proof.Machine.execTax s
  | .tay => Sys2Proof.Machine.execTay s
  | .txa => Sys2Proof.Machine.execTxa s
  | .tya => Sys2Proof.Machine.execTya s
  | .tsx => Sys2Proof.Machine.execTsx s
  | .txs => Sys2Proof.Machine.execTxs s
  -- Stack (42_stack.md)
  | .pha => Sys2Proof.Machine.execPha s
  | .php => Sys2Proof.Machine.execPhp s
  | .pla => Sys2Proof.Machine.execPla s
  | .plp => Sys2Proof.Machine.execPlp s
  -- Logic and bit test (43_logic_bit.md)
  | .andImm v => Sys2Proof.Machine.execAndImm v s
  | .andZp d => Sys2Proof.Machine.execAndZp d s
  | .andZpX d => Sys2Proof.Machine.execAndZpX d s
  | .andAbs w => Sys2Proof.Machine.execAndAbs w s
  | .andAbsX w => Sys2Proof.Machine.execAndAbsX w s
  | .andAbsY w => Sys2Proof.Machine.execAndAbsY w s
  | .andIndX d => Sys2Proof.Machine.execAndIndX d s
  | .andIndY d => Sys2Proof.Machine.execAndIndY d s
  | .oraImm v => Sys2Proof.Machine.execOraImm v s
  | .oraZp d => Sys2Proof.Machine.execOraZp d s
  | .oraZpX d => Sys2Proof.Machine.execOraZpX d s
  | .oraAbs w => Sys2Proof.Machine.execOraAbs w s
  | .oraAbsX w => Sys2Proof.Machine.execOraAbsX w s
  | .oraAbsY w => Sys2Proof.Machine.execOraAbsY w s
  | .oraIndX d => Sys2Proof.Machine.execOraIndX d s
  | .oraIndY d => Sys2Proof.Machine.execOraIndY d s
  | .eorImm v => Sys2Proof.Machine.execEorImm v s
  | .eorZp d => Sys2Proof.Machine.execEorZp d s
  | .eorZpX d => Sys2Proof.Machine.execEorZpX d s
  | .eorAbs w => Sys2Proof.Machine.execEorAbs w s
  | .eorAbsX w => Sys2Proof.Machine.execEorAbsX w s
  | .eorAbsY w => Sys2Proof.Machine.execEorAbsY w s
  | .eorIndX d => Sys2Proof.Machine.execEorIndX d s
  | .eorIndY d => Sys2Proof.Machine.execEorIndY d s
  | .bitZp d => Sys2Proof.Machine.execBitZp d s
  | .bitAbs w => Sys2Proof.Machine.execBitAbs w s
  -- Arithmetic and compare (44_arithmetic_compare.md)
  | .adcImm v => Sys2Proof.Machine.execAdcImm v s
  | .adcZp d => Sys2Proof.Machine.execAdcZp d s
  | .adcZpX d => Sys2Proof.Machine.execAdcZpX d s
  | .adcAbs w => Sys2Proof.Machine.execAdcAbs w s
  | .adcAbsX w => Sys2Proof.Machine.execAdcAbsX w s
  | .adcAbsY w => Sys2Proof.Machine.execAdcAbsY w s
  | .adcIndX d => Sys2Proof.Machine.execAdcIndX d s
  | .adcIndY d => Sys2Proof.Machine.execAdcIndY d s
  | .sbcImm v => Sys2Proof.Machine.execSbcImm v s
  | .sbcZp d => Sys2Proof.Machine.execSbcZp d s
  | .sbcZpX d => Sys2Proof.Machine.execSbcZpX d s
  | .sbcAbs w => Sys2Proof.Machine.execSbcAbs w s
  | .sbcAbsX w => Sys2Proof.Machine.execSbcAbsX w s
  | .sbcAbsY w => Sys2Proof.Machine.execSbcAbsY w s
  | .sbcIndX d => Sys2Proof.Machine.execSbcIndX d s
  | .sbcIndY d => Sys2Proof.Machine.execSbcIndY d s
  | .cmpImm v => Sys2Proof.Machine.execCmpImm v s
  | .cmpZp d => Sys2Proof.Machine.execCmpZp d s
  | .cmpZpX d => Sys2Proof.Machine.execCmpZpX d s
  | .cmpAbs w => Sys2Proof.Machine.execCmpAbs w s
  | .cmpAbsX w => Sys2Proof.Machine.execCmpAbsX w s
  | .cmpAbsY w => Sys2Proof.Machine.execCmpAbsY w s
  | .cmpIndX d => Sys2Proof.Machine.execCmpIndX d s
  | .cmpIndY d => Sys2Proof.Machine.execCmpIndY d s
  | .cpxImm v => Sys2Proof.Machine.execCpxImm v s
  | .cpxZp d => Sys2Proof.Machine.execCpxZp d s
  | .cpxAbs w => Sys2Proof.Machine.execCpxAbs w s
  | .cpyImm v => Sys2Proof.Machine.execCpyImm v s
  | .cpyZp d => Sys2Proof.Machine.execCpyZp d s
  | .cpyAbs w => Sys2Proof.Machine.execCpyAbs w s
  -- Increment, decrement, shift, rotate (45_incdec_shift.md)
  | .incZp d => Sys2Proof.Machine.execIncZp d s
  | .incZpX d => Sys2Proof.Machine.execIncZpX d s
  | .incAbs w => Sys2Proof.Machine.execIncAbs w s
  | .incAbsX w => Sys2Proof.Machine.execIncAbsX w s
  | .decZp d => Sys2Proof.Machine.execDecZp d s
  | .decZpX d => Sys2Proof.Machine.execDecZpX d s
  | .decAbs w => Sys2Proof.Machine.execDecAbs w s
  | .decAbsX w => Sys2Proof.Machine.execDecAbsX w s
  | .inx => Sys2Proof.Machine.execInx s
  | .iny => Sys2Proof.Machine.execIny s
  | .dex => Sys2Proof.Machine.execDex s
  | .dey => Sys2Proof.Machine.execDey s
  | .aslAcc => Sys2Proof.Machine.execAslAcc s
  | .aslZp d => Sys2Proof.Machine.execAslZp d s
  | .aslZpX d => Sys2Proof.Machine.execAslZpX d s
  | .aslAbs w => Sys2Proof.Machine.execAslAbs w s
  | .aslAbsX w => Sys2Proof.Machine.execAslAbsX w s
  | .lsrAcc => Sys2Proof.Machine.execLsrAcc s
  | .lsrZp d => Sys2Proof.Machine.execLsrZp d s
  | .lsrZpX d => Sys2Proof.Machine.execLsrZpX d s
  | .lsrAbs w => Sys2Proof.Machine.execLsrAbs w s
  | .lsrAbsX w => Sys2Proof.Machine.execLsrAbsX w s
  | .rolAcc => Sys2Proof.Machine.execRolAcc s
  | .rolZp d => Sys2Proof.Machine.execRolZp d s
  | .rolZpX d => Sys2Proof.Machine.execRolZpX d s
  | .rolAbs w => Sys2Proof.Machine.execRolAbs w s
  | .rolAbsX w => Sys2Proof.Machine.execRolAbsX w s
  | .rorAcc => Sys2Proof.Machine.execRorAcc s
  | .rorZp d => Sys2Proof.Machine.execRorZp d s
  | .rorZpX d => Sys2Proof.Machine.execRorZpX d s
  | .rorAbs w => Sys2Proof.Machine.execRorAbs w s
  | .rorAbsX w => Sys2Proof.Machine.execRorAbsX w s
  -- Control transfer (46_control_transfer.md)
  | .jmpAbs w => Sys2Proof.Machine.execJmpAbs w s
  | .jmpInd w => Sys2Proof.Machine.execJmpInd w s
  | .jsr w => Sys2Proof.Machine.execJsr w s
  | .rts => Sys2Proof.Machine.execRts s
  | .bcc d => Sys2Proof.Machine.execBcc d s
  | .bcs d => Sys2Proof.Machine.execBcs d s
  | .beq d => Sys2Proof.Machine.execBeq d s
  | .bne d => Sys2Proof.Machine.execBne d s
  | .bmi d => Sys2Proof.Machine.execBmi d s
  | .bpl d => Sys2Proof.Machine.execBpl d s
  | .bvc d => Sys2Proof.Machine.execBvc d s
  | .bvs d => Sys2Proof.Machine.execBvs d s
  -- Flags, no-operation, break, return (47_flags_system.md)
  | .clc => Sys2Proof.Machine.execClc s
  | .sec => Sys2Proof.Machine.execSec s
  | .cli => Sys2Proof.Machine.execCli s
  | .sei => Sys2Proof.Machine.execSei s
  | .cld => Sys2Proof.Machine.execCld s
  | .sed => Sys2Proof.Machine.execSed s
  | .clv => Sys2Proof.Machine.execClv s
  | .nop => Sys2Proof.Machine.execNop s
  | .brk => Sys2Proof.Machine.execBrk s
  | .rti => Sys2Proof.Machine.execRti s

end Sys2Proof.Machine
end

