-- ==== Sys2Proof/Machine/Step.lean ====
section
/-! DEFINITION. One step (spec/40_step_and_addressing.md R150): the instruction attempt, then, unless it met an unknown opcode, the
observer window (R155) and the interrupt poll (60_exceptions.md R333); and where the step fetches its next instruction. -/

namespace Sys2Proof.Machine

/-- After a known instruction: the observer is told the cycles it took since `before`, then the poll is made (R155, R333, R342). -/
def afterInstruction (before : Nat) (s : State) : Host.Outcome State Fault Refusal :=
  andThen (observe (s.es.cycles - before) s) poll

/-- The step of R150. -/
def step (s : State) : Host.Outcome State Fault Refusal :=
  andThen (fetch s) fun (f, s1) =>
  match f with
  | .unknown b0 => unknownOpcode b0 s1
  | .known i => andThen (exec i s1) (afterInstruction s1.es.cycles)

/-- `s` with the instruction whose bits are `w` (numbered as spec/opcode_table.json numbers them, zeros above `nbits`) at `PC`, in the
store bytes the active configuration reads there (log 7). -/
def State.withFetchWord (s : State) (nbits w : Nat) : State := placeBytes (wordBytes nbits w) s.pc s

end Sys2Proof.Machine
end

