-- ==== Sys2Proof/Machine/HostSurface.lean ====
section
/-! DEFINITION. What the host may do between steps (spec/70_reset_and_hazards.md R392): the memory surface (20_memory.md R95 to R99), the
mutable registers and latches (10_state.md R21, R35, R36), construction and Reset (70_reset_and_hazards.md R380 to R383), the
configuration switch (20_memory.md R80) and writes to shared stores (R85). No step calls any of it. -/

namespace Sys2Proof.Machine

/-- CPU and Memory right after construction (R44, R383): latches false, `ES` zero, `cfg` 0, the parameters as given; the registers
hold any values, which are arguments here (93_implementation_defined.md U3). -/
def State.constructed (params : Params) (stores : List Store) (plat : Plat) (a x y sp : Byte) (pc : Word) (p : Byte) : State where
  a := a
  x := x
  y := y
  sp := sp
  pc := pc
  p := p
  irq := false
  nmi := false
  cfg := 0
  stores := stores
  plat := plat
  es := {}
  params := params

/-- `StoreData(a, bytes)`: ascending addresses, each an ordinary write (R96). -/
def storeData (a : Word) (bytes : List Byte) (s : State) : Result State :=
  match bytes with
  | [] => .next s
  | b :: rest => andThen (memWrite a b s) (storeData (a + 1#16) rest)

/-- The mask of bit `n` of a byte. -/
def bitMask (n : Fin 8) : Byte := 1#8 <<< n.val

/-- `IsBitSet(a, n)`: the answer, and the state after the read (R97). -/
def isBitSet (a : Word) (n : Fin 8) (s : State) : Result (Bool × State) :=
  andThen (memRead a s) fun (v, s1) => .next (v.getLsbD n.val, s1)

/-- `SetBit(a, n)` (R97). -/
def setBit (a : Word) (n : Fin 8) (s : State) : Result State :=
  andThen (memRead a s) fun (v, s1) => memWrite a (v ||| bitMask n) s1

/-- `ClearBit(a, n)` (R97). -/
def clearBit (a : Word) (n : Fin 8) (s : State) : Result State :=
  andThen (memRead a s) fun (v, s1) => memWrite a (v &&& ~~~(bitMask n)) s1

/-- A program image (R99): two little-endian address bytes, then the data, placed from that address on. DESIGN CHOICE
(log 15): each byte is placed by a write through the active configuration, unsafe where that binds no RAM, since R99 names no path; an
image of fewer than two bytes places nothing, safe. -/
def loadImage (image : List Byte) (s : State) : Result State :=
  match image with
  | lo :: hi :: bytes => storeData (joinWord hi lo) bytes s
  | _ => .next s

/-- The host's moves at an instruction boundary (R392). DESIGN CHOICE, unsafe: `NMI` is only ever set, `raiseNmi`; R36 calls it mutable,
but R332 and R392 name writing false for `IRQ` only (log 18). -/
inductive HostMove where
  | reset
  | writeA (v : Byte)
  | writeX (v : Byte)
  | writeY (v : Byte)
  | writeSp (v : Byte)
  | writePc (w : Word)
  | writeP (v : Byte)
  | writeFlag (bit : Fin 8) (b : Bool)
  | writeIrq (b : Bool)
  | raiseNmi
  | readByte (a : Word)
  | writeByte (a : Word) (v : Byte)
  | writeWord (a w : Word)
  | storeData (a : Word) (bytes : List Byte)
  | setBit (a : Word) (n : Fin 8)
  | clearBit (a : Word) (n : Fin 8)
  | setMemoryConfiguration (i : Int)
  | writeSharedStore (w : StoreWrite)
deriving DecidableEq, Repr

/-- What a host move does (R21, R35, R36, R80, R85, R95 to R97, R380, R392). -/
def hostMove (m : HostMove) (s : State) : Result State :=
  match m with
  | .reset => resetCpu s
  | .writeA v => .next { s with a := v }
  | .writeX v => .next { s with x := v }
  | .writeY v => .next { s with y := v }
  | .writeSp v => .next { s with sp := v }
  | .writePc w => .next { s with pc := w }
  | .writeP v => .next { s with p := v }
  | .writeFlag n b => .next { s with p := putFlag (bitMask n) b s.p }
  | .writeIrq b => .next { s with irq := b }
  | .raiseNmi => .next { s with nmi := true }
  | .readByte a => andThen (memRead a s) fun (_, s1) => .next s1
  | .writeByte a v => memWrite a v s
  | .writeWord a w => memWriteWord a w s
  | .storeData a bytes => storeData a bytes s
  | .setBit a n => setBit a n s
  | .clearBit a n => clearBit a n s
  | .setMemoryConfiguration i => setMemoryConfiguration i s
  | .writeSharedStore w => writeStoreByte w s

end Sys2Proof.Machine
end

