-- ==== Sys2Proof/Machine/RunControl.lean ====
section
/-! DEFINITION. The host's entry points for running: one instruction (spec/40_step_and_addressing.md R157), and the run loop `Execute`
with the Exec-Evaluators and ExecOptions (60_exceptions.md R360 to R366; 10_state.md R42). -/

namespace Sys2Proof.Machine

/-- `ExecuteOneInstruction(mem)` (40_step_and_addressing.md R157). The spec leaves open whether the call alone polls: the caller says
(93_implementation_defined.md U16, log 13). -/
def executeOneInstruction (polls : Bool) (s : State) : Result State :=
  andThen (fetch s) fun (f, s1) =>
  match f with
  | .unknown b0 => unknownOpcode b0 s1
  | .known i =>
    andThen (exec i s1) fun s2 =>
    andThen (observe (s2.es.cycles - s1.es.cycles) s2) fun s3 => if polls then poll s3 else .next s3

/-- What `ExecuteOneInstructionMinimal` gives back. -/
structure MinimalResult where
  known : Bool
  cyclesConsumed : Nat
  state : State
deriving DecidableEq, Repr

/-- `ExecuteOneInstructionMinimal(mem, out cyclesConsumed)` (R157): the same transition, without the bookkeeping of R154 and the
notification of R155; the cycles are given back instead. -/
def executeOneInstructionMinimal (polls : Bool) (s : State) : Result MinimalResult :=
  andThen (fetch s) fun (f, s1) =>
  match f with
  | .unknown b0 => andThen (unknownOpcode b0 s1) fun s2 => .next ⟨false, s2.es.cycles - s1.es.cycles, s2⟩
  | .known i =>
    andThen (exec i s1) fun s2 =>
    let cycles := s2.es.cycles - s1.es.cycles
    let s3 := { s2 with es := s1.es }
    andThen (if polls then poll s3 else .next s3) fun s4 => .next ⟨true, cycles, s4⟩

/-- What an evaluator may look at (R361): the state the call began in, and the last step from `before` to `now`. -/
structure RunView where
  start : State
  before : State
  now : State
deriving DecidableEq, Repr

/-- What an evaluator answers (R361): whether to continue, and optionally a trigger reason. -/
structure Verdict where
  continues : Bool
  reason : Option String := none
deriving DecidableEq, Repr

/-- An Exec-Evaluator (R361): a pure predicate, asked after each step; its reason, if it gives one, may differ from answer to answer. -/
abbrev Evaluator := RunView → Verdict

/-- `MaxNumberOfInstructions = n` (R362): counted from the start of the call. -/
def maxNumberOfInstructions (n : Nat) : Evaluator := fun v =>
  { continues := decide (v.now.es.instructions - v.start.es.instructions < n), reason := some "MaxNumberOfInstructions" }

/-- `CyclesRequested = k` (R363): counted from the start of the call. -/
def cyclesRequested (k : Nat) : Evaluator := fun v =>
  { continues := decide (v.now.es.cycles - v.start.es.cycles < k), reason := some "CyclesRequested" }

/-- `ExecuteUntilInstruction = op` (R364): stop after the step that executed `op`. -/
def executeUntilInstruction (op : Byte) : Evaluator := fun v =>
  { continues := !(v.now.es.lastOpcode == op && v.now.es.lastHandled), reason := some "ExecuteUntilInstruction" }

/-- The usual breakpoint (R365): `Continue = (PC != breakpoint address)`, asked after the step. -/
def breakpoint (a : Word) : Evaluator := fun v => { continues := v.now.pc != a, reason := some "Breakpoint" }

/-- ExecOptions (R42): the immutable options of one call. -/
structure ExecOptions where
  maxNumberOfInstructions : Option (BitVec 64) := none
  cyclesRequested : Option (BitVec 64) := none
  executeUntilInstruction : Option Byte := none
  unknownInstructionThrowsException : Bool := false
deriving DecidableEq, Repr

/-- The evaluators the options stand for, in the options' order. -/
def ExecOptions.evaluators (o : ExecOptions) : List Evaluator :=
  (o.maxNumberOfInstructions.map fun n => Machine.maxNumberOfInstructions n.toNat).toList
    ++ (o.cyclesRequested.map fun k => Machine.cyclesRequested k.toNat).toList
    ++ (o.executeUntilInstruction.map Machine.executeUntilInstruction).toList

/-- The unknown-opcode policy of a call: `UnknownInstructionThrowsException` is `UNKNOWN_THROWS` of the run (R5, R42). -/
def ExecOptions.install (o : ExecOptions) (s : State) : State :=
  { s with params := { s.params with unknownThrows := o.unknownInstructionThrowsException } }

/-- What a call of `Execute` comes to (R366): a stop names the evaluator by its place in the list, and its reason if it gave one (R361);
`running` says only that the bound on the number of steps was used up. -/
inductive ExecuteResult where
  | stopped (index : Nat) (reason : Option String) (s : State)
  | unknownOpcode (s : State)
  | fault (e : Fault)
  | refused (e : Refusal)
  | running (s : State)
deriving DecidableEq, Repr

/-- The first evaluator that says no, by its place in the list, and the reason of that answer (R360, R361). -/
def firstStop (es : List Evaluator) (view : RunView) (index : Nat) : Option (Nat × Option String) :=
  match es with
  | [] => none
  | e :: rest => if (e view).continues then firstStop rest view (index + 1) else some (index, (e view).reason)

/-- The loop of R360 for at most `fuel` steps: step, stop on a tolerant unknown opcode (R344), else ask the evaluators in order. -/
def executeLoop (es : List Evaluator) (start : State) (fuel : Nat) (s : State) : ExecuteResult :=
  match fuel with
  | 0 => .running s
  | k + 1 =>
    match step s with
    | .fault e => .fault e
    | .refused e => .refused e
    | .next t =>
      if t.es.lastHandled then
        match firstStop es ⟨start, s, t⟩ 0 with
        | some (index, reason) => .stopped index reason t
        | none => executeLoop es start k t
      else .unknownOpcode t

/-- `Execute(mem, evaluators[])` (R360), the number of steps bounded by `fuel`, which is the model's own and no part of the machine. -/
def execute (es : List Evaluator) (fuel : Nat) (s : State) : ExecuteResult := executeLoop es s fuel s

/-- `Execute` under ExecOptions (R42): the options' policy and evaluators, then the caller's own evaluators. -/
def executeWith (o : ExecOptions) (es : List Evaluator) (fuel : Nat) (s : State) : ExecuteResult :=
  execute (o.evaluators ++ es) fuel (o.install s)

end Sys2Proof.Machine
end

