-- ==== Sys2Proof/Safety.lean ====
section
/-! DEFINITION. The terms claims are stated in: reading and writing a byte that is plain memory, the effective address and the status
register written out in ordinary numbers from the spec's formulas (spec/40_step_and_addressing.md R164 to R173, 10_state.md R25), what
may change in memory, and the invariants of a machine whose parameters are admitted. Nothing here is used by the step. -/

namespace Sys2Proof.Machine

/-! ## Plain bytes: no callback, no fault -/

/-- The byte a read of `a` gives when `a` is bound to a store byte for reading; `none` where the read would run a Reader, fault or be
refused (R65, R70). -/
def State.peek (s : State) (a : Word) : Option Byte :=
  match readBinding s a with
  | .array st i => storeByte? s.stores st i
  | _ => none

/-- The state after a write of `v` at `a` when `a` is bound to a store byte or is ROM for writing; `none` where the write would run a
Writer, fault or be refused (R65, R66, R71). -/
def State.poke (s : State) (a : Word) (v : Byte) : Option State :=
  match writeBinding s a with
  | .array st i => (storeWrite? s.stores st i v).map fun ts => { s with stores := ts }
  | .drop => some s
  | _ => none

/-- Plain writes in order. -/
def State.pokes (s : State) : List (Word × Byte) → Option State
  | [] => some s
  | (a, v) :: rest => (s.poke a v).bind fun t => t.pokes rest

/-- `n` plain bytes at ascending addresses from `a`. -/
def State.bytesAt (s : State) (a : Word) : Nat → Option (List Byte)
  | 0 => some []
  | n + 1 => (s.peek a).bind fun b => (s.bytesAt (a + 1#16) n).map fun bs => b :: bs

/-- A little-endian word at two plain addresses (R74, R75). -/
def State.peekWord (s : State) (lo hi : Word) : Option Word :=
  (s.peek lo).bind fun l => (s.peek hi).map fun h => BitVec.ofNat 16 (h.toNat * 256 + l.toNat)

/-- A write at `a` and a read at `b` meet in one store byte (R85). -/
def State.Shares (s : State) (a b : Word) : Prop :=
  ∃ st i, writeBinding s a = .array st i ∧ readBinding s b = .array st i

/-- A write at `a` in the active configuration and a read at `b` in configuration `c` meet in one store byte (R85). -/
def State.SharesIn (s : State) (c : Nat) (a b : Word) : Prop :=
  ∃ st i, writeBinding s a = .array st i ∧ readBinding { s with cfg := c } b = .array st i

/-- Memory in `t` is as in `s`, but for what a write at one of `cells` reaches. -/
structure SameBytesBut (cells : List Word) (s t : State) : Prop where
  /-- Every address reads as before, in every configuration, but for those that share a store byte with one of `cells`. -/
  reads : ∀ c b, (∀ a ∈ cells, ¬ s.SharesIn c a b) → State.peek { t with cfg := c } b = State.peek { s with cfg := c } b
  /-- Every store byte is as before, whether or not a configuration shows it, but for those bound for writing at one of `cells`. -/
  bytes : ∀ st i, (∀ a ∈ cells, writeBinding s a ≠ .array st i) → storeByte? t.stores st i = storeByte? s.stores st i

/-- Every address is plain memory in the active configuration: RAM, or ROM, of a store byte that exists. -/
def State.Plain (s : State) : Prop :=
  ∀ a, (s.peek a).isSome = true ∧ ∀ v, (s.poke a v).isSome = true

/-! ## The operand of an instruction (R113) -/

/-- The value operand an instruction's mode and operand bytes spell, if its mode has one. -/
def sourceOf (i : Instr) : Option Src :=
  match i.row.mode, i.operand with
  | .imm, [v] => some (.imm v)
  | .zp, [d] => some (.mem (.zp d))
  | .zpx, [d] => some (.mem (.zpX d))
  | .zpy, [d] => some (.mem (.zpY d))
  | .abs, [l, h] => some (.mem (.abs (BitVec.ofNat 16 (h.toNat * 256 + l.toNat))))
  | .absx, [l, h] => some (.mem (.absX (BitVec.ofNat 16 (h.toNat * 256 + l.toNat))))
  | .absy, [l, h] => some (.mem (.absY (BitVec.ofNat 16 (h.toNat * 256 + l.toNat))))
  | .indx, [d] => some (.mem (.indX d))
  | .indy, [d] => some (.mem (.indY d))
  | _, _ => none

/-- The memory operand an instruction's mode and operand bytes spell, if its mode has one. -/
def targetOf (i : Instr) : Option Ea :=
  match sourceOf i with
  | some (.mem e) => some e
  | _ => none

/-- A pointer in page 0, both bytes plain (R172, R173). -/
def State.pointer (s : State) (z : Nat) : Option Nat :=
  (s.peekWord (BitVec.ofNat 16 (z % 256)) (BitVec.ofNat 16 ((z + 1) % 256))).map BitVec.toNat

/-- `EA` and `crossed` (R164 to R166, R168 to R170, R172, R173), in ordinary numbers; the pointer modes read plain bytes only. -/
def State.effective (s : State) : Ea → Option (Nat × Bool)
  | .zp d => some (d.toNat, false)
  | .zpX d => some ((d.toNat + s.x.toNat) % 256, false)
  | .zpY d => some ((d.toNat + s.y.toNat) % 256, false)
  | .abs w => some (w.toNat, false)
  | .absX w => let ea := (w.toNat + s.x.toNat) % 65536; some (ea, w.toNat / 256 != ea / 256)
  | .absY w => let ea := (w.toNat + s.y.toNat) % 65536; some (ea, w.toNat / 256 != ea / 256)
  | .indX d => (s.pointer (d.toNat + s.x.toNat)).map fun w => (w, false)
  | .indY d => (s.pointer d.toNat).map fun w => let ea := (w + s.y.toNat) % 65536; (ea, w / 256 != ea / 256)

/-- `EA` as an address. -/
def State.address (s : State) (e : Ea) : Option Word := (s.effective e).map fun r => BitVec.ofNat 16 r.1

/-- `Operand(mode)` (R175) and `crossed`, read from plain bytes. -/
def State.value (s : State) : Src → Option (Byte × Bool)
  | .imm v => some (v, false)
  | .mem e => (s.effective e).bind fun r => (s.peek (BitVec.ofNat 16 r.1)).map fun v => (v, r.2)

/-! ## The status register and the bookkeeping, written out -/

/-- A status byte from its eight bits, bit 7 down to bit 0 (R25). -/
def statusByte (n v u b d i z c : Bool) : Byte :=
  BitVec.ofNat 8 (128 * n.toNat + 64 * v.toNat + 32 * u.toNat + 16 * b.toNat + 8 * d.toNat + 4 * i.toNat + 2 * z.toNat + c.toNat)

/-- `P` with N, Z, C and V as given and the other four bits of `p`. -/
def withNZCV (p : Byte) (n z c v : Bool) : Byte := statusByte n v (flagU p) (flagB p) (flagD p) (flagI p) z c

/-- `P` after `SetNZ(r)`: N is bit 7 of `r`, Z says `r = 0`, all else as in `p` (00_scope.md R8). -/
def withNZ (p r : Byte) : Byte := withNZCV p (decide (128 ≤ r.toNat)) (decide (r.toNat = 0)) (flagC p) (flagV p)

/-- `P` after `SetNZ(r)` and `P.C <- c`. -/
def withNZC (p r : Byte) (c : Bool) : Byte := withNZCV p (decide (128 ≤ r.toNat)) (decide (r.toNat = 0)) c (flagV p)

/-- `(PC + n) mod 65536` (R24). -/
def State.pcPlus (s : State) (n : Nat) : Word := BitVec.ofNat 16 ((s.pc.toNat + n) % 65536)

/-- ExecState after a known instruction that took `cycles` (R154). -/
def State.accounted (s : State) (i : Instr) (cycles : Nat) : ExecState where
  cycles := s.es.cycles + cycles
  instructions := s.es.instructions + 1
  lastOpcode := i.row.opcode
  unknownCount := s.es.unknownCount
  lastHandled := true

/-- `base + p` (R190, R191). -/
def readCycles (i : Instr) (crossed : Bool) : Nat := i.row.cycles + (if i.row.penalty = .page ∧ crossed = true then 1 else 0)

/-- `s` with PC at the next instruction and the bookkeeping of `i` done (R153, R154): everything a known instruction that is no
control transfer does besides its own effect. -/
def State.completed (s : State) (i : Instr) (cycles : Nat) : State :=
  { s with pc := s.pcPlus i.length, es := s.accounted i cycles }

/-- The page-1 address `k` bytes below the free byte `SP` names (R22, R180). -/
def stackBelow (sp : Byte) (k : Nat) : Word := BitVec.ofNat 16 (256 + (sp.toNat + 256 - k % 256) % 256)

/-- The page-1 address `k` bytes above the free byte `SP` names (R22, R181). -/
def stackAbove (sp : Byte) (k : Nat) : Word := BitVec.ofNat 16 (256 + (sp.toNat + k) % 256)

/-- The three bytes of a trap's pushes, in order (R336): `PCH`, `PCL`, the status copy. -/
def trapPushes (sp : Byte) (ret : Nat) (copy : Byte) : List (Word × Byte) :=
  [(stackBelow sp 0, BitVec.ofNat 8 (ret / 256)), (stackBelow sp 1, BitVec.ofNat 8 (ret % 256)), (stackBelow sp 2, copy)]

/-- The page-1 addresses of a trap's three pushes. -/
def trapCells (sp : Byte) : List Word := [stackBelow sp 0, stackBelow sp 1, stackBelow sp 2]

/-- The addresses an instruction writes to, computed before it runs, in order (the access lists of files 41 to 47): the effective
address of a store or a read-modify-write, the page-1 bytes of a push; no other instruction writes. -/
def writtenCells (i : Instr) (s : State) : List Word :=
  match i.row.mnemonic with
  | .sta | .stx | .sty | .inc | .dec | .asl | .lsr | .rol | .ror =>
    match targetOf i with
    | some e => (s.address e).toList
    | none => []
  | .pha | .php => [stackBelow s.sp 0]
  | .jsr => [stackBelow s.sp 0, stackBelow s.sp 1]
  | .brk => trapCells s.sp
  | _ => []

/-! ## Invariants -/

/-- The lengths of the stores, fixed for the machine (R39). -/
def State.sizes (s : State) : List Nat := s.stores.map Store.size

/-- The parameters are admitted (R64), the active configuration exists (R38), and the stores are in canonical form. -/
def State.Inv (s : State) : Prop :=
  s.params.wellFormed s.sizes = true ∧ s.cfg < s.params.count ∧ s.memoryWf

/-- No configuration binds a Reader or a Writer and no observer is installed: the platform has no move inside a step. -/
def State.NoCallbacks (s : State) : Prop :=
  s.params.observer = none ∧
  ∀ ops ∈ s.params.configs, ∀ op ∈ ops, (∀ a f, op ≠ .mapReader a f) ∧ ∀ a g, op ≠ .mapWriter a g

/-- A byte whose two decimal digits are both at most 9. -/
def validBcd (b : Byte) : Prop := b.toNat / 16 ≤ 9 ∧ b.toNat % 16 ≤ 9

/-- The number two decimal digits spell. -/
def bcdValue (b : Byte) : Nat := b.toNat / 16 * 10 + b.toNat % 16

end Sys2Proof.Machine
end

