-- ==== Sys2Proof/Certificates/Slice0/Obligations.lean ====
section
/-! DEFINITION. The statements for the provers, from the numbered rules of spec/. Each docstring names the rules; where a statement
names instructions by mnemonic, the docstring lists the constructors. "Plain" memory is what `State.peek` and `State.poke` reach:
bytes whose access runs no callback and does not fault. -/

section
open Sys2Proof Sys2Proof.Machine

/-! ## Encoding -/

/-- R112, R113, R114, R120: decoding the bytes of any instruction, whatever follows them, gives it back with every operand at every
value, and leaves what follows. All 151 constructors. -/
def Obligations.DecodeOfEncode : Prop :=
  ∀ (i : Instr) (rest : List Byte), decode (encode i ++ rest) = .instr i rest

/-- R112, R113, R120: bytes that decode to an instruction are that instruction's own bytes; no two byte strings of one length decode to
one instruction. -/
def Obligations.EncodeOfDecode : Prop :=
  ∀ (bs : List Byte) (i : Instr) (rest : List Byte), decode bs = .instr i rest → bs = encode i ++ rest

/-- Words written out from the tables of files 41 to 47, one or more per family, decode to the instruction they stand for. -/
def Obligations.SpecWordsDecode : Prop :=
  decodeTableWord 16 0x44A9 = some (.ldaImm 0x44#8) ∧ decodeTableWord 16 0x10B6 = some (.ldxZpY 0x10#8) ∧
  decodeTableWord 24 0x12349D = some (.staAbsX 0x1234#16) ∧ decodeTableWord 8 0xBA = some .tsx ∧
  decodeTableWord 8 0x48 = some .pha ∧ decodeTableWord 8 0x28 = some .plp ∧
  decodeTableWord 16 0x4031 = some (.andIndY 0x40#8) ∧ decodeTableWord 24 0x12342C = some (.bitAbs 0x1234#16) ∧
  decodeTableWord 16 0x20E1 = some (.sbcIndX 0x20#8) ∧ decodeTableWord 16 0x00C0 = some (.cpyImm 0x00#8) ∧
  decodeTableWord 24 0xFF01DE = some (.decAbsX 0xFF01#16) ∧ decodeTableWord 8 0x6A = some .rorAcc ∧
  decodeTableWord 24 0x02FF6C = some (.jmpInd 0x02FF#16) ∧ decodeTableWord 16 0xFED0 = some (.bne 0xFE#8) ∧
  decodeTableWord 8 0x00 = some .brk ∧ decodeTableWord 8 0x40 = some .rti

/-- R122: exactly the listed 105 byte values, whatever follows them, are unknown opcodes. -/
def Obligations.UnknownOpcodesAreTheListed105 : Prop :=
  let listed : List Byte :=
    [0x02, 0x03, 0x04, 0x07, 0x0B, 0x0C, 0x0F, 0x12, 0x13, 0x14, 0x17, 0x1A, 0x1B, 0x1C, 0x1F, 0x22, 0x23, 0x27, 0x2B, 0x2F, 0x32]
    ++ [0x33, 0x34, 0x37, 0x3A, 0x3B, 0x3C, 0x3F, 0x42, 0x43, 0x44, 0x47, 0x4B, 0x4F, 0x52, 0x53, 0x54, 0x57, 0x5A, 0x5B, 0x5C, 0x5F]
    ++ [0x62, 0x63, 0x64, 0x67, 0x6B, 0x6F, 0x72, 0x73, 0x74, 0x77, 0x7A, 0x7B, 0x7C, 0x7F, 0x80, 0x82, 0x83, 0x87, 0x89, 0x8B, 0x8F]
    ++ [0x92, 0x93, 0x97, 0x9B, 0x9C, 0x9E, 0x9F, 0xA3, 0xA7, 0xAB, 0xAF, 0xB2, 0xB3, 0xB7, 0xBB, 0xBF, 0xC2, 0xC3, 0xC7, 0xCB, 0xCF]
    ++ [0xD2, 0xD3, 0xD4, 0xD7, 0xDA, 0xDB, 0xDC, 0xDF, 0xE2, 0xE3, 0xE7, 0xEB, 0xEF, 0xF2, 0xF3, 0xF4, 0xF7, 0xFA, 0xFB, 0xFC, 0xFF]
  listed.length = 105 ∧ listed.Nodup ∧
  ∀ (b0 : Byte) (rest : List Byte), decode (b0 :: rest) = .unknownOpcode b0 ↔ b0 ∈ listed

/-! ## The step -/

/-- R150 to R155, R333: where the bytes at PC decode to an instruction, the step is its meaning, then the observer told the cycles it
took, then the interrupt poll, and nothing else. -/
def Obligations.StepRunsDecodedInstruction : Prop :=
  ∀ (s : State) (i : Instr) (bs : List Byte), s.bytesAt s.pc i.length = some bs → decode bs = .instr i [] →
    step s = andThen (exec i s) fun t => andThen (observe (t.es.cycles - s.es.cycles) t) poll

/-- R150, R333: where further no observer is installed and the instruction leaves no interrupt to take, the step is the
instruction. -/
def Obligations.QuietStepIsTheInstruction : Prop :=
  ∀ (s t : State) (i : Instr) (bs : List Byte), s.bytesAt s.pc i.length = some bs → decode bs = .instr i [] →
    s.params.observer = none → exec i s = .next t → t.nmi = false → (t.irq = false ∨ flagI t.p = true) → step s = .next t

/-- R343: an unknown opcode in strict mode, however its byte was read, counts itself, is recorded, and raises `UnknownOpcode(B0, pc0)`
with PC still at `pc0`; `u` is the state after the read of the opcode (`s` itself, unless a Reader ran). -/
def Obligations.StrictUnknownOpcodeFaults : Prop :=
  ∀ (s u : State) (b0 : Byte), memRead s.pc s = .next (b0, u) → opcodeLength b0 = none → s.params.unknownThrows = true →
    step s = .fault (.unknownOpcode b0 s.pc { u with
      pc := s.pc
      es := { s.es with unknownCount := s.es.unknownCount + 1, lastOpcode := b0, lastHandled := false } })

/-- R344: an unknown opcode in tolerant mode, however its byte was read, counts itself, is recorded, is charged its cycles and skips one
byte, whatever follows it; no register, flag or memory changes, no observer is told, no poll is made, and the run loop stops there; `u`
is the state after the read of the opcode (`s` itself, unless a Reader ran). That this is a next state of `step`, with the run loop's stop
beside it, is the model's choice (log 2), and so is the bound on the run loop's steps (log 12). -/
def Obligations.TolerantUnknownOpcodeIsSkipped : Prop :=
  ∀ (s u : State) (b0 : Byte), memRead s.pc s = .next (b0, u) → opcodeLength b0 = none → s.params.unknownThrows = false →
    ∃ t, step s = .next t ∧
      t = { u with
        pc := s.pcPlus 1
        es :=
          { s.es with
            unknownCount := s.es.unknownCount + 1
            lastOpcode := b0
            lastHandled := false
            cycles := s.es.cycles + s.params.unknownOpcodeCycles } } ∧
      (t.a = s.a ∧ t.x = s.x ∧ t.y = s.y ∧ t.sp = s.sp ∧ t.p = s.p) ∧
      ∀ es fuel, execute es (fuel + 1) s = .unknownOpcode t

/-! ## The addressing-mode resolver and the stack operations -/

/-- R164, R165, R166, R168, R169, R170, R172, R173: the effective address and the page-cross flag of every memory mode; where the mode
reads a pointer, both its bytes are read in page 0, and the resolver changes nothing. -/
def Obligations.EffectiveAddresses : Prop :=
  ∀ (s : State) (d : Byte) (w : Word),
    resolve (.zp d) s = .next (⟨BitVec.ofNat 16 d.toNat, false⟩, s) ∧
    resolve (.zpX d) s = .next (⟨BitVec.ofNat 16 ((d.toNat + s.x.toNat) % 256), false⟩, s) ∧
    resolve (.zpY d) s = .next (⟨BitVec.ofNat 16 ((d.toNat + s.y.toNat) % 256), false⟩, s) ∧
    resolve (.abs w) s = .next (⟨w, false⟩, s) ∧
    resolve (.absX w) s =
      .next (⟨BitVec.ofNat 16 ((w.toNat + s.x.toNat) % 65536), decide (256 ≤ w.toNat % 256 + s.x.toNat)⟩, s) ∧
    resolve (.absY w) s =
      .next (⟨BitVec.ofNat 16 ((w.toNat + s.y.toNat) % 65536), decide (256 ≤ w.toNat % 256 + s.y.toNat)⟩, s) ∧
    (∀ lo hi : Byte, s.peek (BitVec.ofNat 16 ((d.toNat + s.x.toNat) % 256)) = some lo →
      s.peek (BitVec.ofNat 16 ((d.toNat + s.x.toNat + 1) % 256)) = some hi →
      resolve (.indX d) s = .next (⟨BitVec.ofNat 16 (hi.toNat * 256 + lo.toNat), false⟩, s)) ∧
    (∀ lo hi : Byte, s.peek (BitVec.ofNat 16 d.toNat) = some lo → s.peek (BitVec.ofNat 16 ((d.toNat + 1) % 256)) = some hi →
      resolve (.indY d) s =
        .next (⟨BitVec.ofNat 16 ((hi.toNat * 256 + lo.toNat + s.y.toNat) % 65536), decide (256 ≤ lo.toNat + s.y.toNat)⟩, s))

/-- R180 to R183: a push writes at `0x0100 + SP` and then decrements SP modulo 256; a pull increments SP modulo 256 and then reads at
`0x0100 + SP`; a word is pushed high byte first and pulled low byte first. On any memory, callbacks and faults included. -/
def Obligations.PushAndPull : Prop :=
  (∀ (v : Byte) (s : State), push v s =
    andThen (memWrite (BitVec.ofNat 16 (256 + s.sp.toNat)) v s) fun t => .next { t with sp := BitVec.ofNat 8 (t.sp.toNat + 255) }) ∧
  (∀ s : State, pull s =
    memRead (BitVec.ofNat 16 (256 + (s.sp.toNat + 1) % 256)) { s with sp := BitVec.ofNat 8 (s.sp.toNat + 1) }) ∧
  (∀ (w : Word) (s : State), pushWord w s =
    andThen (push (BitVec.ofNat 8 (w.toNat / 256)) s) fun t => push (BitVec.ofNat 8 (w.toNat % 256)) t) ∧
  (∀ s : State, pullWord s =
    andThen (pull s) fun lo => andThen (pull lo.2) fun hi => .next (BitVec.ofNat 16 (hi.1.toNat * 256 + lo.1.toNat), hi.2))

/-! ## Loads, stores, transfers (41_load_store_transfer.md) -/

/-- R201 to R203: every form of LDA (ldaImm, ldaZp, ldaZpX, ldaAbs, ldaAbsX, ldaAbsY, ldaIndX, ldaIndY), LDX (ldxImm, ldxZp, ldxZpY,
ldxAbs, ldxAbsY) and LDY (ldyImm, ldyZp, ldyZpX, ldyAbs, ldyAbsX) on a plain operand: the register takes the operand, Z and N follow
it, PC and the counters advance, nothing else changes. -/
def Obligations.LoadResult : Prop :=
  ∀ (i : Instr) (s : State) (src : Src) (v : Byte) (crossed : Bool),
    sourceOf i = some src → s.value src = some (v, crossed) →
    (i.row.mnemonic = .lda →
      exec i s = .next { s.completed i (readCycles i crossed) with a := v, p := withNZ s.p v }) ∧
    (i.row.mnemonic = .ldx →
      exec i s = .next { s.completed i (readCycles i crossed) with x := v, p := withNZ s.p v }) ∧
    (i.row.mnemonic = .ldy →
      exec i s = .next { s.completed i (readCycles i crossed) with y := v, p := withNZ s.p v })

/-- R204 to R206, R34: every form of STA (staZp, staZpX, staAbs, staAbsX, staAbsY, staIndX, staIndY), STX (stxZp, stxZpY, stxAbs) and STY
(styZp, styZpX, styAbs) whose effective address is plain: the register is written there, no flag changes, PC and the counters
advance, and every byte but those sharing the written one reads as before. -/
def Obligations.StoreResult : Prop :=
  ∀ (i : Instr) (s t : State) (e : Ea) (ea : Word) (r : Byte),
    (i.row.mnemonic = .sta ∧ r = s.a ∨ i.row.mnemonic = .stx ∧ r = s.x ∨ i.row.mnemonic = .sty ∧ r = s.y) →
    targetOf i = some e → s.address e = some ea → s.poke ea r = some t →
    exec i s = .next (t.completed i i.row.cycles) ∧ t = { s with stores := t.stores } ∧ SameBytesBut [ea] s t ∧
      ∀ b, s.Shares ea b → t.peek b = some r

/-- R207 to R212: TAX, TAY, TXA, TYA, TSX set Z and N from the value moved; TXS changes no flag (constructors tax, tay, txa, tya, tsx,
txs): their byte, and in every state what they move, one byte of PC and two cycles. TXS alone sets SP to any value: every other
instruction that answers, on any memory, moves SP by at most three. -/
def Obligations.TransferResult : Prop :=
  encode .tax = [0xAA#8] ∧ encode .tay = [0xA8#8] ∧ encode .txa = [0x8A#8] ∧ encode .tya = [0x98#8] ∧ encode .tsx = [0xBA#8] ∧
  encode .txs = [0x9A#8] ∧
  ∀ s : State,
    exec .tax s = .next { s.completed .tax 2 with x := s.a, p := withNZ s.p s.a } ∧
    exec .tay s = .next { s.completed .tay 2 with y := s.a, p := withNZ s.p s.a } ∧
    exec .txa s = .next { s.completed .txa 2 with a := s.x, p := withNZ s.p s.x } ∧
    exec .tya s = .next { s.completed .tya 2 with a := s.y, p := withNZ s.p s.y } ∧
    exec .tsx s = .next { s.completed .tsx 2 with x := s.sp, p := withNZ s.p s.sp } ∧
    exec .txs s = .next { s.completed .txs 2 with sp := s.x } ∧
    ∀ (i : Instr) (t : State), exec i s = .next t → i.row.mnemonic ≠ .txs →
      ∃ k ≤ 3, t.sp = BitVec.ofNat 8 (s.sp.toNat + k) ∨ t.sp = BitVec.ofNat 8 (s.sp.toNat + 256 - k)

/-! ## Stack instructions (42_stack.md) -/

/-- R231 to R234, R30, R32: PHA pushes A and PHP the status with bits 4 and 5 set, at `0x0100 + SP`, where that byte is plain; SP goes down
by one modulo 256, no flag changes, and no other byte of memory. PLA takes the pulled byte into A with Z and N; PLP takes six flags from
it and keeps the live bits 4 and 5; SP goes up by one modulo 256 (constructors pha, php, pla, plp). -/
def Obligations.StackInstructionResult : Prop :=
  (∀ (i : Instr) (s t : State) (v : Byte),
    (i = .pha ∧ v = s.a ∨
      i = .php ∧ v = statusByte (flagN s.p) (flagV s.p) true true (flagD s.p) (flagI s.p) (flagZ s.p) (flagC s.p)) →
    s.poke (stackBelow s.sp 0) v = some t →
    exec i s = .next { t.completed i 3 with sp := BitVec.ofNat 8 (s.sp.toNat + 255) } ∧
      t = { s with stores := t.stores } ∧ SameBytesBut [stackBelow s.sp 0] s t) ∧
  ∀ (s : State) (v : Byte), s.peek (stackAbove s.sp 1) = some v →
    exec .pla s = .next { s.completed .pla 4 with sp := BitVec.ofNat 8 (s.sp.toNat + 1), a := v, p := withNZ s.p v } ∧
    exec .plp s = .next { s.completed .plp 4 with
      sp := BitVec.ofNat 8 (s.sp.toNat + 1)
      p := statusByte (flagN v) (flagV v) (flagU s.p) (flagB s.p) (flagD v) (flagI v) (flagZ v) (flagC v) }

/-! ## Logic (43_logic_bit.md) -/

/-- R241 to R243: every form of AND (andImm, andZp, andZpX, andAbs, andAbsX, andAbsY, andIndX, andIndY), ORA (oraImm, oraZp, oraZpX,
oraAbs, oraAbsX, oraAbsY, oraIndX, oraIndY) and EOR (eorImm, eorZp, eorZpX, eorAbs, eorAbsX, eorAbsY, eorIndX, eorIndY) on a plain
operand. -/
def Obligations.LogicResult : Prop :=
  ∀ (i : Instr) (s : State) (src : Src) (m r : Byte) (crossed : Bool),
    sourceOf i = some src → s.value src = some (m, crossed) →
    (i.row.mnemonic = .and ∧ r = s.a &&& m ∨ i.row.mnemonic = .ora ∧ r = s.a ||| m ∨ i.row.mnemonic = .eor ∧ r = s.a ^^^ m) →
    exec i s = .next { s.completed i (readCycles i crossed) with a := r, p := withNZ s.p r }

/-- R244: BIT (bitZp, bitAbs) on a plain operand: Z from `A & M`, N and V from bits 7 and 6 of the operand; A unchanged. -/
def Obligations.BitResult : Prop :=
  ∀ (i : Instr) (s : State) (src : Src) (m : Byte) (crossed : Bool),
    i.row.mnemonic = .bit → sourceOf i = some src → s.value src = some (m, crossed) →
    exec i s = .next { s.completed i i.row.cycles with
      p := withNZCV s.p (m.getLsbD 7) (decide (s.a &&& m = 0x00#8)) (flagC s.p) (m.getLsbD 6) }

/-! ## Arithmetic and compare (44_arithmetic_compare.md) -/

/-- R251: every form of ADC (adcImm, adcZp, adcZpX, adcAbs, adcAbsX, adcAbsY, adcIndX, adcIndY) on a plain operand with `P.D = 0`. -/
def Obligations.AdcBinaryResult : Prop :=
  ∀ (i : Instr) (s : State) (src : Src) (m : Byte) (crossed : Bool),
    i.row.mnemonic = .adc → sourceOf i = some src → s.value src = some (m, crossed) → flagD s.p = false →
    let sum := s.a.toNat + m.toNat + (flagC s.p).toNat
    let r : Byte := BitVec.ofNat 8 sum
    exec i s = .next { s.completed i (readCycles i crossed) with
      a := r
      p := withNZCV s.p (decide (128 ≤ sum % 256)) (decide (sum % 256 = 0)) (decide (256 ≤ sum))
        (decide ((s.a ^^^ r) &&& (m ^^^ r) &&& 0x80#8 ≠ 0x00#8)) }

/-- R252: every form of ADC (the eight constructors above) on a plain operand with `P.D = 1`, invalid digits included. -/
def Obligations.AdcDecimalResult : Prop :=
  ∀ (i : Instr) (s : State) (src : Src) (m : Byte) (crossed : Bool),
    i.row.mnemonic = .adc → sourceOf i = some src → s.value src = some (m, crossed) → flagD s.p = true →
    let a := s.a.toNat
    let c := (flagC s.p).toNat
    let low := a % 16 + m.toNat % 16 + c
    let al := if 10 ≤ low then (low + 6) % 16 + 16 else low
    let ah := a / 16 * 16
    let mh := m.toNat / 16 * 16
    let t := ah + mh + al
    let ts : Int := (if ah < 128 then (ah : Int) else ah - 256) + (if mh < 128 then (mh : Int) else mh - 256) + al
    let t' := if 160 ≤ t then t + 96 else t
    exec i s = .next { s.completed i (readCycles i crossed) with
      a := BitVec.ofNat 8 (t' % 256)
      p := withNZCV s.p (decide (128 ≤ t % 256)) (decide ((a + m.toNat + c) % 256 = 0)) (decide (256 ≤ t'))
        (decide (ts < -128 ∨ 127 < ts)) }

/-- R253: every form of SBC (sbcImm, sbcZp, sbcZpX, sbcAbs, sbcAbsX, sbcAbsY, sbcIndX, sbcIndY) on a plain operand with `P.D = 0`. -/
def Obligations.SbcBinaryResult : Prop :=
  ∀ (i : Instr) (s : State) (src : Src) (m : Byte) (crossed : Bool),
    i.row.mnemonic = .sbc → sourceOf i = some src → s.value src = some (m, crossed) → flagD s.p = false →
    let d : Int := (s.a.toNat : Int) - m.toNat - (1 - (flagC s.p).toNat)
    let r : Byte := BitVec.ofNat 8 (d % 256).toNat
    exec i s = .next { s.completed i (readCycles i crossed) with
      a := r
      p := withNZCV s.p (decide (128 ≤ d % 256)) (decide (d % 256 = 0)) (decide (0 ≤ d))
        (decide ((s.a ^^^ m) &&& (s.a ^^^ r) &&& 0x80#8 ≠ 0x00#8)) }

/-- R254, R253: every form of SBC (the eight constructors above) on a plain operand with `P.D = 1`: the four flags are those of the
binary difference, only the value written to A is decimal. -/
def Obligations.SbcDecimalResult : Prop :=
  ∀ (i : Instr) (s : State) (src : Src) (m : Byte) (crossed : Bool),
    i.row.mnemonic = .sbc → sourceOf i = some src → s.value src = some (m, crossed) → flagD s.p = true →
    let c : Int := (flagC s.p).toNat
    let d : Int := (s.a.toNat : Int) - m.toNat - (1 - c)
    let r : Byte := BitVec.ofNat 8 (d % 256).toNat
    let low : Int := ((s.a.toNat % 16 : Nat) : Int) - ((m.toNat % 16 : Nat) : Int) + c - 1
    let al : Int := if low < 0 then (low - 6) % 16 - 16 else low
    let t : Int := ((s.a.toNat / 16 * 16 : Nat) : Int) - ((m.toNat / 16 * 16 : Nat) : Int) + al
    let t' : Int := if t < 0 then t - 96 else t
    exec i s = .next { s.completed i (readCycles i crossed) with
      a := BitVec.ofNat 8 (t' % 256).toNat
      p := withNZCV s.p (decide (128 ≤ d % 256)) (decide (d % 256 = 0)) (decide (0 ≤ d))
        (decide ((s.a ^^^ m) &&& (s.a ^^^ r) &&& 0x80#8 ≠ 0x00#8)) }

/-- R255 to R257: every form of CMP (cmpImm, cmpZp, cmpZpX, cmpAbs, cmpAbsX, cmpAbsY, cmpIndX, cmpIndY), CPX (cpxImm, cpxZp, cpxAbs) and
CPY (cpyImm, cpyZp, cpyAbs) on a plain operand: C, Z and N only, whatever C and D were. -/
def Obligations.CompareResult : Prop :=
  ∀ (i : Instr) (s : State) (src : Src) (m r : Byte) (crossed : Bool),
    (i.row.mnemonic = .cmp ∧ r = s.a ∨ i.row.mnemonic = .cpx ∧ r = s.x ∨ i.row.mnemonic = .cpy ∧ r = s.y) →
    sourceOf i = some src → s.value src = some (m, crossed) →
    exec i s = .next { s.completed i (readCycles i crossed) with
      p := withNZCV s.p (decide (128 ≤ (r.toNat + 256 - m.toNat) % 256)) (decide (r = m)) (decide (m.toNat ≤ r.toNat)) (flagV s.p) }

/-- R251, R253: the overflow flag of binary ADC says that the signed sum leaves -128..127, that of SBC that the signed difference
does; and binary SBC is binary ADC of the one's complement of the operand, in its result and in all its flags. -/
def Obligations.BinaryArithmeticForms : Prop :=
  ∀ p a m : Byte,
    let sum : Int := a.toInt + m.toInt + (flagC p).toNat
    let difference : Int := a.toInt - m.toInt - (1 - (flagC p).toNat)
    flagV (adcBinary p a m).2 = decide (sum < -128 ∨ 127 < sum) ∧
    flagV (sbcBinary p a m).2 = decide (difference < -128 ∨ 127 < difference) ∧
    sbcBinary p a m = adcBinary p a (m ^^^ 0xFF#8)

/-- R252, R254: on two valid two-digit numbers decimal ADC and SBC compute the decimal sum and difference modulo 100, with C the decimal
carry and the inverse of the decimal borrow, and the result is again two valid digits. -/
def Obligations.DecimalModeIsDecimal : Prop :=
  ∀ p a m : Byte, validBcd a → validBcd m → flagD p = true →
    let sum := bcdValue a + bcdValue m + (flagC p).toNat
    let less := bcdValue m + (1 - (flagC p).toNat)
    validBcd (adcAlu p a m).1 ∧ bcdValue (adcAlu p a m).1 = sum % 100 ∧ flagC (adcAlu p a m).2 = decide (100 ≤ sum) ∧
    validBcd (sbcAlu p a m).1 ∧ bcdValue (sbcAlu p a m).1 = (bcdValue a + 100 - less) % 100 ∧
    flagC (sbcAlu p a m).2 = decide (less ≤ bcdValue a)

/-! ## Increments, decrements, shifts, rotates (45_incdec_shift.md) -/

/-- R270 to R272, R277 to R280: the memory forms of INC (incZp, incZpX, incAbs, incAbsX), DEC (decZp, decZpX, decAbs, decAbsX), ASL (aslZp,
aslZpX, aslAbs, aslAbsX), LSR (lsrZp, lsrZpX, lsrAbs, lsrAbsX), ROL (rolZp, rolZpX, rolAbs, rolAbsX) and ROR (rorZp, rorZpX, rorAbs,
rorAbsX) whose effective address is plain for reading and writing: the byte is replaced, the flags follow the value written (also
where the write is dropped), and every byte but those sharing the written one reads as before. -/
def Obligations.ModifyMemoryResult : Prop :=
  ∀ (i : Instr) (s t : State) (e : Ea) (ea : Word) (v : Byte) (n : Nat) (carry : Bool),
    (i.row.mnemonic = .inc ∧ n = v.toNat + 1 ∧ carry = flagC s.p ∨
      i.row.mnemonic = .dec ∧ n = v.toNat + 255 ∧ carry = flagC s.p ∨
      i.row.mnemonic = .asl ∧ n = 2 * v.toNat ∧ carry = decide (128 ≤ v.toNat) ∨
      i.row.mnemonic = .lsr ∧ n = v.toNat / 2 ∧ carry = decide (v.toNat % 2 = 1) ∨
      i.row.mnemonic = .rol ∧ n = 2 * v.toNat + (flagC s.p).toNat ∧ carry = decide (128 ≤ v.toNat) ∨
      i.row.mnemonic = .ror ∧ n = v.toNat / 2 + 128 * (flagC s.p).toNat ∧ carry = decide (v.toNat % 2 = 1)) →
    targetOf i = some e → s.address e = some ea → s.peek ea = some v → s.poke ea (BitVec.ofNat 8 n) = some t →
    exec i s = .next { t.completed i i.row.cycles with p := withNZC s.p (BitVec.ofNat 8 n) carry } ∧
      t = { s with stores := t.stores } ∧ SameBytesBut [ea] s t ∧ ∀ b, s.Shares ea b → t.peek b = some (BitVec.ofNat 8 n)

/-- R273 to R280: INX, INY, DEX, DEY wrap modulo 256, set Z and N, and change no other flag (constructors inx, iny, dex, dey); the
accumulator forms of the shifts and rotates set C from the bit that leaves A, Z and N from the result (aslAcc, lsrAcc, rolAcc, rorAcc).
In every state. -/
def Obligations.ModifyRegisterResult : Prop :=
  ∀ s : State,
    let x1 : Byte := BitVec.ofNat 8 (s.x.toNat + 1)
    let y1 : Byte := BitVec.ofNat 8 (s.y.toNat + 1)
    let x255 : Byte := BitVec.ofNat 8 (s.x.toNat + 255)
    let y255 : Byte := BitVec.ofNat 8 (s.y.toNat + 255)
    let asl : Byte := BitVec.ofNat 8 (2 * s.a.toNat)
    let lsr : Byte := BitVec.ofNat 8 (s.a.toNat / 2)
    let rol : Byte := BitVec.ofNat 8 (2 * s.a.toNat + (flagC s.p).toNat)
    let ror : Byte := BitVec.ofNat 8 (s.a.toNat / 2 + 128 * (flagC s.p).toNat)
    let top := decide (128 ≤ s.a.toNat)
    let bottom := decide (s.a.toNat % 2 = 1)
    exec .inx s = .next { s.completed .inx 2 with x := x1, p := withNZ s.p x1 } ∧
    exec .iny s = .next { s.completed .iny 2 with y := y1, p := withNZ s.p y1 } ∧
    exec .dex s = .next { s.completed .dex 2 with x := x255, p := withNZ s.p x255 } ∧
    exec .dey s = .next { s.completed .dey 2 with y := y255, p := withNZ s.p y255 } ∧
    exec .aslAcc s = .next { s.completed .aslAcc 2 with a := asl, p := withNZC s.p asl top } ∧
    exec .lsrAcc s = .next { s.completed .lsrAcc 2 with a := lsr, p := withNZC s.p lsr bottom } ∧
    exec .rolAcc s = .next { s.completed .rolAcc 2 with a := rol, p := withNZC s.p rol top } ∧
    exec .rorAcc s = .next { s.completed .rorAcc 2 with a := ror, p := withNZC s.p ror bottom }

/-! ## Control transfer (46_control_transfer.md) -/

/-- R291, R171: JMP (jmpAbs, jmpInd) loads PC and changes nothing else; through a pointer the high byte comes from the same page as the
low byte, where both are plain. -/
def Obligations.JumpResult : Prop :=
  ∀ (s : State) (w target : Word),
    exec (.jmpAbs w) s = .next { s with pc := w, es := s.accounted (.jmpAbs w) 3 } ∧
    (s.peekWord w (BitVec.ofNat 16 (w.toNat / 256 * 256 + (w.toNat % 256 + 1) % 256)) = some target →
      exec (.jmpInd w) s = .next { s with pc := target, es := s.accounted (.jmpInd w) 5 })

/-- R292, R293, R182, R183: JSR (jsr) pushes the address of its own last byte, high byte first, where the two page-1 bytes are plain, and
jumps; no flag and no other byte of memory changes. RTS (rts) pulls a word, low byte first, and resumes one past it, modulo 65536. -/
def Obligations.CallAndReturnResult : Prop :=
  (∀ (s t : State) (w : Word),
    let ret := (s.pc.toNat + 2) % 65536
    s.pokes [(stackBelow s.sp 0, BitVec.ofNat 8 (ret / 256)), (stackBelow s.sp 1, BitVec.ofNat 8 (ret % 256))] = some t →
    exec (.jsr w) s = .next { t with sp := BitVec.ofNat 8 (s.sp.toNat + 254), pc := w, es := s.accounted (.jsr w) 6 } ∧
      t = { s with stores := t.stores } ∧ SameBytesBut [stackBelow s.sp 0, stackBelow s.sp 1] s t) ∧
  ∀ (s : State) (w : Word), s.peekWord (stackAbove s.sp 1) (stackAbove s.sp 2) = some w →
    exec .rts s = .next { s with
      sp := BitVec.ofNat 8 (s.sp.toNat + 2)
      pc := BitVec.ofNat 16 (w.toNat + 1)
      es := s.accounted .rts 6 }

/-- R294 to R302, R167, R192: the eight branches (bcc, bcs, beq, bne, bmi, bpl, bvc, bvs) in every state: the target is the next
instruction's address plus the signed offset, modulo 65536; two cycles, three if taken, four if taken into another page; nothing
else changes. -/
def Obligations.BranchResult : Prop :=
  ∀ (s : State) (d : Byte) (i : Instr) (cond : Bool),
    (i = .bcc d ∧ cond = !flagC s.p ∨ i = .bcs d ∧ cond = flagC s.p ∨ i = .beq d ∧ cond = flagZ s.p ∨
      i = .bne d ∧ cond = !flagZ s.p ∨ i = .bmi d ∧ cond = flagN s.p ∨ i = .bpl d ∧ cond = !flagN s.p ∨
      i = .bvc d ∧ cond = !flagV s.p ∨ i = .bvs d ∧ cond = flagV s.p) →
    let next := (s.pc.toNat + 2) % 65536
    let offset : Int := if d.toNat < 128 then (d.toNat : Int) else d.toNat - 256
    let target := (((next : Int) + offset) % 65536).toNat
    exec i s = .next { s with
      pc := BitVec.ofNat 16 (if cond then target else next)
      es := s.accounted i (if cond then (if next / 256 = target / 256 then 3 else 4) else 2) }

/-- R292, R293: a subroutine that returns with its return address intact resumes at the instruction after its JSR: whatever else has
changed since the JSR, memory and configuration included, if SP is as the JSR left it and the two page-1 bytes read as the JSR left
them, RTS gives back SP and the address past the call. -/
def Obligations.CallThenReturn : Prop :=
  ∀ (s t u : State) (w : Word),
    exec (.jsr w) s = .next t →
    s.Shares (stackBelow s.sp 0) (stackBelow s.sp 0) → s.Shares (stackBelow s.sp 1) (stackBelow s.sp 1) →
    ¬ s.Shares (stackBelow s.sp 1) (stackBelow s.sp 0) →
    u.sp = t.sp → u.peek (stackBelow s.sp 0) = t.peek (stackBelow s.sp 0) → u.peek (stackBelow s.sp 1) = t.peek (stackBelow s.sp 1) →
    ∃ v, exec .rts u = .next v ∧ v.pc = s.pcPlus 3 ∧ v.sp = s.sp

/-! ## Flags, NOP, BRK, RTI (47_flags_system.md) -/

/-- R311, R312, R315, R317: CLC, SEC, CLD and CLV (constructors clc, sec, cld, clv): their byte, and in every state the one flag they
write, one byte of PC and two cycles. -/
def Obligations.FlagInstructionResult : Prop :=
  encode .clc = [0x18#8] ∧ encode .sec = [0x38#8] ∧ encode .cld = [0xD8#8] ∧ encode .clv = [0xB8#8] ∧
  ∀ s : State,
    exec .clc s = .next { s.completed .clc 2 with
      p := statusByte (flagN s.p) (flagV s.p) (flagU s.p) (flagB s.p) (flagD s.p) (flagI s.p) (flagZ s.p) false } ∧
    exec .sec s = .next { s.completed .sec 2 with
      p := statusByte (flagN s.p) (flagV s.p) (flagU s.p) (flagB s.p) (flagD s.p) (flagI s.p) (flagZ s.p) true } ∧
    exec .cld s = .next { s.completed .cld 2 with
      p := statusByte (flagN s.p) (flagV s.p) (flagU s.p) (flagB s.p) false (flagI s.p) (flagZ s.p) (flagC s.p) } ∧
    exec .clv s = .next { s.completed .clv 2 with
      p := statusByte (flagN s.p) false (flagU s.p) (flagB s.p) (flagD s.p) (flagI s.p) (flagZ s.p) (flagC s.p) }

/-- R313, R314, R316, R318: CLI, SEI, SED and NOP (constructors cli, sei, sed, nop) in every state. -/
def Obligations.MaskAndModeResult : Prop :=
  ∀ s : State,
    exec .cli s = .next { s.completed .cli 2 with
      p := statusByte (flagN s.p) (flagV s.p) (flagU s.p) (flagB s.p) (flagD s.p) false (flagZ s.p) (flagC s.p) } ∧
    exec .sei s = .next { s.completed .sei 2 with
      p := statusByte (flagN s.p) (flagV s.p) (flagU s.p) (flagB s.p) (flagD s.p) true (flagZ s.p) (flagC s.p) } ∧
    exec .sed s = .next { s.completed .sed 2 with
      p := statusByte (flagN s.p) (flagV s.p) (flagU s.p) (flagB s.p) true (flagI s.p) (flagZ s.p) (flagC s.p) } ∧
    exec .nop s = .next (s.completed .nop 2)

/-- R319, R32, R79: BRK (brk) pushes its own address plus 2 and the status with bits 4 and 5 set, sets `P.I` and nothing else of P, and
goes to the word at 0xFFFE, where those bytes are plain; the latches and D stay, and no other byte of memory changes. -/
def Obligations.BrkResult : Prop :=
  ∀ (s t : State) (w : Word),
    let copy := statusByte (flagN s.p) (flagV s.p) true true (flagD s.p) (flagI s.p) (flagZ s.p) (flagC s.p)
    s.pokes (trapPushes s.sp ((s.pc.toNat + 2) % 65536) copy) = some t → t.peekWord 0xFFFE#16 0xFFFF#16 = some w →
    exec .brk s = .next { t with
      sp := BitVec.ofNat 8 (s.sp.toNat + 253)
      p := statusByte (flagN s.p) (flagV s.p) (flagU s.p) (flagB s.p) (flagD s.p) true (flagZ s.p) (flagC s.p)
      pc := w
      es := s.accounted .brk 7 } ∧
    t = { s with stores := t.stores } ∧ SameBytesBut (trapCells s.sp) s t

/-- R320, R30: RTI (rti) pulls the status, keeping the live bits 4 and 5, then the address, at which it resumes exactly. -/
def Obligations.RtiResult : Prop :=
  ∀ (s : State) (v : Byte) (w : Word),
    s.peek (stackAbove s.sp 1) = some v → s.peekWord (stackAbove s.sp 2) (stackAbove s.sp 3) = some w →
    exec .rti s = .next { s with
      sp := BitVec.ofNat 8 (s.sp.toNat + 3)
      p := statusByte (flagN v) (flagV v) (flagU s.p) (flagB s.p) (flagD v) (flagI v) (flagZ v) (flagC v)
      pc := w
      es := s.accounted .rti 6 }

/-! ## Frames over every form, callbacks included -/

/-- R34: the instructions that never change any flag, in every state and form from which they answer; BRK changes only `P.I`. -/
def Obligations.FlagsNeverChangedBy : Prop :=
  ∀ (i : Instr) (s t : State), exec i s = .next t →
    (i.row.mnemonic ∈
      [.sta, .stx, .sty, .txs, .pha, .php, .jmp, .jsr, .rts, .nop, .bcc, .bcs, .beq, .bne, .bmi, .bpl, .bvc, .bvs] → t.p = s.p) ∧
    (i.row.mnemonic = .brk →
      flagI t.p = true ∧ flagN t.p = flagN s.p ∧ flagV t.p = flagV s.p ∧ flagU t.p = flagU s.p ∧ flagB t.p = flagB s.p ∧
      flagD t.p = flagD s.p ∧ flagZ t.p = flagZ s.p ∧ flagC t.p = flagC s.p)

/-- R26 to R33: which instructions may change each flag, in every state and form from which they answer; no instruction changes the live
bits 4 and 5. -/
def Obligations.FlagWriters : Prop :=
  ∀ (i : Instr) (s t : State), exec i s = .next t →
    (i.row.mnemonic ∉ [.adc, .sbc, .cmp, .cpx, .cpy, .asl, .rol, .lsr, .ror, .clc, .sec, .plp, .rti] → flagC t.p = flagC s.p) ∧
    (i.row.mnemonic ∉ [.lda, .ldx, .ldy, .tax, .tay, .txa, .tya, .tsx, .pla, .and, .ora, .eor, .inc, .dec, .inx, .iny, .dex, .dey, .asl,
        .lsr, .rol, .ror, .adc, .sbc, .cmp, .cpx, .cpy, .bit, .plp, .rti] → flagZ t.p = flagZ s.p ∧ flagN t.p = flagN s.p) ∧
    (i.row.mnemonic ∉ [.brk, .sei, .cli, .plp, .rti] → flagI t.p = flagI s.p) ∧
    (i.row.mnemonic ∉ [.sed, .cld, .plp, .rti] → flagD t.p = flagD s.p) ∧
    (i.row.mnemonic ∉ [.adc, .sbc, .bit, .clv, .plp, .rti] → flagV t.p = flagV s.p) ∧
    flagB t.p = flagB s.p ∧ flagU t.p = flagU s.p

/-- R21, R22: which instructions may change A, X, Y and SP, in every state and form from which they answer, and how far each moves SP; a
form of ASL, LSR, ROL or ROR on memory leaves A alone. -/
def Obligations.RegisterWriters : Prop :=
  ∀ (i : Instr) (s t : State), exec i s = .next t →
    (i.row.mnemonic ∉ [.lda, .pla, .txa, .tya, .adc, .sbc, .and, .ora, .eor] → i.row.mode ≠ .acc → t.a = s.a) ∧
    (i.row.mnemonic ∉ [.ldx, .tax, .tsx, .inx, .dex] → t.x = s.x) ∧
    (i.row.mnemonic ∉ [.ldy, .tay, .iny, .dey] → t.y = s.y) ∧
    (i.row.mnemonic ∉ [.txs, .pha, .php, .pla, .plp, .jsr, .rts, .brk, .rti] → t.sp = s.sp) ∧
    (i.row.mnemonic ∈ [.pha, .php] → t.sp = BitVec.ofNat 8 (s.sp.toNat + 255)) ∧
    (i.row.mnemonic ∈ [.pla, .plp] → t.sp = BitVec.ofNat 8 (s.sp.toNat + 1)) ∧
    (i.row.mnemonic = .jsr → t.sp = BitVec.ofNat 8 (s.sp.toNat + 254)) ∧
    (i.row.mnemonic = .rts → t.sp = BitVec.ofNat 8 (s.sp.toNat + 2)) ∧
    (i.row.mnemonic = .brk → t.sp = BitVec.ofNat 8 (s.sp.toNat + 253)) ∧
    (i.row.mnemonic = .rti → t.sp = BitVec.ofNat 8 (s.sp.toNat + 3)) ∧
    (i.row.mnemonic = .txs → t.sp = s.x)

/-- R24, R154, R190 to R192: every known instruction that answers counts itself once, records its opcode byte, takes its base cycles and
at most one more on a page cross (two more for a branch), and, unless it is a control transfer, moves PC past its own bytes. -/
def Obligations.BookkeepingOfEveryInstruction : Prop :=
  ∀ (i : Instr) (s t : State), exec i s = .next t →
    (∃ extra, t.es = s.accounted i (i.row.cycles + extra) ∧
      (i.row.penalty = .none → extra = 0) ∧ (i.row.penalty = .page → extra ≤ 1) ∧ (i.row.penalty = .branch → extra ≤ 2)) ∧
    (i.row.mnemonic ∉ [.jmp, .jsr, .rts, .brk, .rti, .bcc, .bcs, .beq, .bne, .bmi, .bpl, .bvc, .bvs] → t.pc = s.pcPlus i.length)

/-- R11, R78, R174: without callbacks, an instruction that answers changes no byte of memory but those it writes to (see `writtenCells`:
the effective address of a store or read-modify-write, the page-1 bytes of a push): every other store byte is as before, and every
address in every configuration reads as before unless it shares a written byte; and it changes neither the latches, nor the active
configuration, nor the platform's state. All 151 constructors. -/
def Obligations.MemoryFrame : Prop :=
  ∀ (i : Instr) (s t : State), s.NoCallbacks → exec i s = .next t →
    SameBytesBut (writtenCells i s) s t ∧ (writtenCells i s = [] → t.stores = s.stores) ∧
    t.irq = s.irq ∧ t.nmi = s.nmi ∧ t.cfg = s.cfg ∧ t.plat = s.plat

/-! ## Memory: bindings, callbacks, bank switching (20_memory.md) -/

/-- R85, R65: a write through any binding to a store byte is seen by every read through any binding to that byte, in any configuration,
at any address, and in the store itself, which another view may read; and by no read of another byte. A write made through another view
of the store is seen likewise. -/
def Obligations.WritesSeenThroughEveryView : Prop :=
  (∀ (s t : State) (a b : Word) (v : Byte) (c st k : Nat), writeBinding s a = .array st k → memWrite a v s = .next t →
    storeByte? t.stores st k = some v ∧
    (readTable (s.params.configs.getD c []) b.toNat = .array st k →
      memRead b { t with cfg := c } = .next (v, { t with cfg := c })) ∧
    (readTable (s.params.configs.getD c []) b.toNat ≠ .array st k →
      State.peek { t with cfg := c } b = State.peek { s with cfg := c } b)) ∧
  ∀ (s t : State) (w : StoreWrite) (b : Word) (c : Nat), hostMove (.writeSharedStore w) s = .next t →
    readTable (s.params.configs.getD c []) b.toNat = .array w.store w.index →
    memRead b { t with cfg := c } = .next (w.value, { t with cfg := c })

/-- R66, R270: a write to a ROM-bound address changes nothing and raises nothing; a store or a push to ROM completes with its usual PC,
SP, cycles and flags. -/
def Obligations.RomWritesAreDropped : Prop :=
  (∀ (s : State) (a : Word) (v : Byte), writeBinding s a = .drop → memWrite a v s = .next s) ∧
  (∀ (s : State) (w : Word), writeBinding s w = .drop → exec (.staAbs w) s = .next (s.completed (.staAbs w) 4)) ∧
  (∀ (s : State) (w : Word) (v : Byte), writeBinding s w = .drop → s.peek w = some v →
    exec (.incAbs w) s = .next { s.completed (.incAbs w) 6 with p := withNZ s.p (BitVec.ofNat 8 (v.toNat + 1)) }) ∧
  (∀ s : State, writeBinding s (stackBelow s.sp 0) = .drop →
    exec .pha s = .next { s.completed .pha 3 with sp := BitVec.ofNat 8 (s.sp.toNat + 255) })

/-- R346, R72: an access of a kind the active configuration does not bind at the address raises `UnboundAccess` with the address, the
configuration and the kind; in the fetch of an opcode it ends the step, in a store the instruction. -/
def Obligations.UnboundAccessFaults : Prop :=
  ∀ (s : State) (a : Word) (v : Byte),
    (readBinding s a = .unbound → ∃ left, memRead a s = .fault (.unboundAccess a s.cfg .read left)) ∧
    (writeBinding s a = .unbound → ∃ left, memWrite a v s = .fault (.unboundAccess a s.cfg .write left)) ∧
    (readBinding s s.pc = .unbound → ∃ left, step s = .fault (.unboundAccess s.pc s.cfg .read left)) ∧
    (writeBinding s a = .unbound → ∃ left, exec (.staAbs a) s = .fault (.unboundAccess a s.cfg .write left))

/-- R80: `SetMemoryConfiguration(i)` sets `cfg` for `0 <= i < C`; else it raises `ConfigIndexOutOfRange(i)` with `cfg` unchanged. -/
def Obligations.SetMemoryConfigurationSwitches : Prop :=
  ∀ (i : Int) (s : State),
    (0 ≤ i ∧ i < s.params.configs.length → setMemoryConfiguration i s = .next { s with cfg := i.toNat }) ∧
    (¬ (0 ≤ i ∧ i < s.params.configs.length) →
      ∃ left, setMemoryConfiguration i s = .fault (.configIndexOutOfRange i left) ∧ left.cfg = s.cfg)

/-- R81: a switch changes nothing but `cfg`: a byte written while one configuration maps its address to RAM is read back there after
switching to any other configuration and back. -/
def Obligations.SwitchingKeepsStorage : Prop :=
  (∀ (i : Int) (s t : State), setMemoryConfiguration i s = .next t → t = { s with cfg := t.cfg }) ∧
  ∀ (s t u w : State) (a : Word) (v : Byte) (i : Int),
    s.Shares a a → memWrite a v s = .next t → setMemoryConfiguration i t = .next u → setMemoryConfiguration s.cfg u = .next w →
    memRead a w = .next (v, w)

/-- R67, R68, R70, R71, R82, R83: a store to a bank-switch port, a Writer whose answer writes a store byte, switches to an existing
configuration and raises requests, has all those effects, in that order, and completes; the next access, the fetch included, goes through
the new configuration. A load from a Reader without further effects takes the byte it answers. -/
def Obligations.CallbackAccesses : Prop :=
  (∀ (s : State) (w : Word) (g c : Nat) (pl : Plat) (sw : StoreWrite) (irq nmi : Bool) (ts : List Store),
    writeBinding s w = .writer g → c < s.params.configs.length →
    writerReply s.params.platform g s.plat s.a =
      ⟨pl, { storeWrites := [sw], setCfg := some (c : Int), raiseIrq := irq, raiseNmi := nmi }⟩ →
    storeWrite? s.stores sw.store sw.index sw.value = some ts →
    ∃ t, exec (.staAbs w) s = .next t ∧
      t = { s.completed (.staAbs w) 4 with plat := pl, stores := ts, cfg := c, irq := s.irq || irq, nmi := s.nmi || nmi } ∧
      ∀ b, readBinding t b = readTable (s.params.configs.getD c []) b.toNat) ∧
  ∀ (s : State) (w : Word) (f : Nat) (v : Byte) (pl : Plat), readBinding s w = .reader f →
    readerReply s.params.platform f s.plat = ⟨v, pl, {}⟩ →
    exec (.ldaAbs w) s = .next { s.completed (.ldaAbs w) 4 with a := v, p := withNZ s.p v, plat := pl }

/-! ## Interrupts (60_exceptions.md) -/

/-- R333, R336, R338, R32: the poll with an NMI pending, or with an IRQ pending and neither NMI nor `P.I` set, pushes PC and the status with
bit 4 clear and bit 5 set, sets `P.I`, goes to the vector, clears that one latch and charges the entry's cycles, where those bytes are
plain; nothing else changes. -/
def Obligations.InterruptEntry : Prop :=
  ∀ (s t : State) (w vector : Word) (irq nmi : Bool),
    (s.nmi = true ∧ vector = 0xFFFA#16 ∧ irq = s.irq ∧ nmi = false ∨
      s.nmi = false ∧ s.irq = true ∧ flagI s.p = false ∧ vector = 0xFFFE#16 ∧ irq = false ∧ nmi = false) →
    s.pokes (trapPushes s.sp s.pc.toNat
      (statusByte (flagN s.p) (flagV s.p) true false (flagD s.p) (flagI s.p) (flagZ s.p) (flagC s.p))) = some t →
    t.peekWord vector (vector + 1#16) = some w →
    poll s = .next { t with
      sp := BitVec.ofNat 8 (s.sp.toNat + 253)
      p := statusByte (flagN s.p) (flagV s.p) (flagU s.p) (flagB s.p) (flagD s.p) true (flagZ s.p) (flagC s.p)
      pc := w
      irq := irq
      nmi := nmi
      es := { s.es with cycles := s.es.cycles + s.params.interruptCycles } } ∧
    t = { s with stores := t.stores } ∧ SameBytesBut (trapCells s.sp) s t

/-- R334: with both latches true the poll enters the NMI handler, clears NMI only and leaves IRQ true; `P.I` is then set, so the IRQ is not
taken by a poll while I stays set, and is taken once I is clear. -/
def Obligations.NmiBeforeIrq : Prop :=
  ∀ s t : State, s.nmi = true → s.irq = true → poll s = .next t →
    (∃ u, interruptEntry 0xFFFA#16 s = .next u ∧ t = { u with nmi := false }) ∧
    t.nmi = false ∧ t.irq = true ∧ flagI t.p = true ∧
    ∀ u : State, u.nmi = false → u.irq = true →
      (flagI u.p = true → poll u = .next u) ∧
      (flagI u.p = false → poll u = andThen (interruptEntry 0xFFFE#16 u) fun v => .next { v with irq := false })

/-- R333, R332: with no NMI, and no IRQ or `P.I` set, the poll changes nothing: a masked IRQ stays pending. -/
def Obligations.MaskedRequestStaysPending : Prop :=
  ∀ s : State, s.nmi = false → (s.irq = false ∨ flagI s.p = true) → poll s = .next s

/-- R350, R336, R320, R319: without callbacks, RTI undoes a trap's entry: whatever else has changed since, memory and configuration
included, if SP and the live bits 4 and 5 are as the entry left them and its three page-1 bytes read as it left them, RTI gives back PC, SP
and all of P; after a BRK it resumes two past the BRK. -/
def Obligations.RtiUndoesTrapEntry : Prop :=
  ∀ (s t u : State), s.NoCallbacks →
    (∀ j < 3, s.Shares (stackBelow s.sp j) (stackBelow s.sp j)) →
    (∀ j < 3, ∀ k < 3, j ≠ k → ¬ s.Shares (stackBelow s.sp j) (stackBelow s.sp k)) →
    (u.sp = t.sp ∧ flagB u.p = flagB t.p ∧ flagU u.p = flagU t.p ∧
      ∀ j < 3, u.peek (stackBelow s.sp j) = t.peek (stackBelow s.sp j)) →
    (∀ vector, interruptEntry vector s = .next t → ∃ v, exec .rti u = .next v ∧ v.pc = s.pc ∧ v.sp = s.sp ∧ v.p = s.p) ∧
    (exec .brk s = .next t → ∃ v, exec .rti u = .next v ∧ v.pc = s.pcPlus 2 ∧ v.sp = s.sp ∧ v.p = s.p)

/-! ## The whole machine -/

/-- R20, R38, R39, R64: the parameters admitted, the active configuration existing and the stores canonical is an invariant of every step,
callbacks, interrupts and unknown opcodes included. -/
def Obligations.InvariantKept : Prop :=
  ∀ s t : State, s.Inv → step s = .next t → t.Inv

/-- The invariant holds right after reset (R44; the stores and the wiring there are the model's choice, log 4). -/
def Obligations.InvariantAtReset : Prop := State.reset.Inv

/-- R392, R64: the invariant is kept by every host move between steps. -/
def Obligations.HostKeepsInvariant : Prop :=
  ∀ (m : HostMove) (s t : State), s.Inv → hostMove m s = .next t → t.Inv

/-- R20, R39, R5: no step changes a parameter or the length of a store. -/
def Obligations.ParametersAndStoreLengthsFixed : Prop :=
  ∀ s t : State, step s = .next t → t.params = s.params ∧ t.sizes = s.sizes

/-- R30, R32: no step, interrupts included, writes or reads the live bits 4 and 5 of P: they stay, and two machines that differ only in
them go on differing only in them. -/
def Obligations.LiveBreakAndUnusedInert : Prop :=
  ∀ (s t : State) (q : Byte), step s = .next t → q &&& 0xCF#8 = s.p &&& 0xCF#8 →
    (flagB t.p = flagB s.p ∧ flagU t.p = flagU s.p) ∧
    step { s with p := q } = .next { t with p := (t.p &&& 0xCF#8) ||| (q &&& 0x30#8) }

/-- R190, R357, R396: no instruction reads the counters: a step from other counter values differs in the counters only, and by as much. -/
def Obligations.CountersNeverRead : Prop :=
  ∀ (s t : State) (cycles instructions : Nat), step s = .next t →
    step { s with es := { s.es with cycles := s.es.cycles + cycles, instructions := s.es.instructions + instructions } } =
      .next { t with es := { t.es with cycles := t.es.cycles + cycles, instructions := t.es.instructions + instructions } }

/-- R349, R86, R66: where every address is plain memory, no observer is installed and the policy is tolerant, every step answers, and
leaves such a machine. This is about `step`, of which a tolerant unknown opcode is a next state by the model's choice (log 2); a call of
`Execute` ends there (R344, R366), as TolerantUnknownOpcodeIsSkipped says. -/
def Obligations.PlainMachineAlwaysSteps : Prop :=
  ∀ s : State, s.Plain → s.params.observer = none → s.params.unknownThrows = false →
    ∃ t, step s = .next t ∧ t.Plain ∧ t.params.observer = none ∧ t.params.unknownThrows = false

/-- R348, R345 to R347, R64: without callbacks, a machine whose parameters are admitted is never refused, and the only faults a step can
end in are an access the active configuration does not bind and, in strict mode, an unknown opcode; where it steps, the parameters are
admitted and without callbacks again. -/
def Obligations.AdmittedMachineStopsOnlyAsNamed : Prop :=
  ∀ s : State, s.Inv → s.NoCallbacks →
    (∀ e, step s ≠ .refused e) ∧
    (∀ e, step s = .fault e →
      (∃ a k left, e = .unboundAccess a s.cfg k left) ∨
      (∃ b left, e = .unknownOpcode b s.pc left ∧ opcodeLength b = none ∧ s.params.unknownThrows = true)) ∧
    ∀ t, step s = .next t → t.Inv ∧ t.NoCallbacks

/-! ## Reset (70_reset_and_hazards.md) -/

/-- R380, R382: `Reset` loads PC from the reset vector, where it is plain, and the five registers from their parameters, and changes
nothing else: latches, configuration, stores, platform state and counters stay. -/
def Obligations.ResetLoadsTheVector : Prop :=
  ∀ (s : State) (w : Word), s.peekWord 0xFFFC#16 0xFFFD#16 = some w →
    resetCpu s = .next { s with
      pc := w
      a := s.params.resetA
      x := s.params.resetX
      y := s.params.resetY
      sp := s.params.resetSp
      p := s.params.resetP }

/-- R44, R383: the machine right after reset is what Reset makes of a machine just constructed, whatever its registers held; its latches
are clear, its configuration is 0 and its counters are zero. Its register values (log 3) and its memory (log 4) are the model's choice. -/
def Obligations.ResetIsResetOfConstructed : Prop :=
  (∀ (a x y sp : Byte) (pc : Word) (p : Byte),
    resetCpu (State.constructed State.reset.params State.reset.stores State.reset.plat a x y sp pc p) = .next State.reset) ∧
  State.reset.irq = false ∧ State.reset.nmi = false ∧ State.reset.cfg = 0 ∧
  State.reset.es.cycles = 0 ∧ State.reset.es.instructions = 0 ∧ State.reset.es.unknownCount = 0 ∧ State.reset.es.lastHandled = false

/-! ## Run control (60_exceptions.md) -/

/-- R360 to R363: a run that evaluators stop has made some steps after which every evaluator said yes, and then a step of a known
instruction after which the evaluator named, and none before it, said no, giving the reason named or none. So a run under
`MaxNumberOfInstructions = n` alone that is stopped by it has executed exactly `n` known instructions, or one where `n` is 0, because the
evaluators are asked after the step; a run under `CyclesRequested = n` alone that is stopped by it has used at least `n` cycles. The bound
on steps, `fuel`, and the texts of the two options' reasons are the model's choice (log 12). -/
def Obligations.RunStopsWhereAsked : Prop :=
  ∀ (n fuel k : Nat) (reason : Option String) (s t : State),
    (∀ es : List Evaluator, execute es fuel s = .stopped k reason t →
      ∃ (m : Nat) (before : State) (e : Evaluator), m < fuel ∧ execute es m s = .running before ∧ step before = .next t ∧
        t.es.lastHandled = true ∧ es[k]? = some e ∧ e ⟨s, before, t⟩ = ⟨false, reason⟩ ∧
        ∀ j < k, ∀ f, es[j]? = some f → (f ⟨s, before, t⟩).continues = true) ∧
    (execute [maxNumberOfInstructions n] fuel s = .stopped k reason t →
      t.es.instructions = s.es.instructions + max 1 n ∧ reason = some "MaxNumberOfInstructions" ∧ k = 0) ∧
    (execute [cyclesRequested n] fuel s = .stopped k reason t →
      n ≤ t.es.cycles - s.es.cycles ∧ reason = some "CyclesRequested" ∧ k = 0)

/-- R157: the single-instruction entry points make the transition of the step. Where the bytes at PC decode to an instruction that
answers, `ExecuteOneInstruction` is the instruction and the observer's notification, then the poll where it polls; `Minimal` makes the
same change to registers, flags, PC and memory, leaves the counters and gives back the cycles instead; and `ExecuteOneInstruction` with
its poll is the step in every state. -/
def Obligations.SingleInstructionEntryPoints : Prop :=
  (∀ s : State, executeOneInstruction true s = step s) ∧
  ∀ (s t : State) (i : Instr) (bs : List Byte), s.bytesAt s.pc i.length = some bs → decode bs = .instr i [] → exec i s = .next t →
    executeOneInstruction false s = observe (t.es.cycles - s.es.cycles) t ∧
    executeOneInstructionMinimal false s = .next ⟨true, t.es.cycles - s.es.cycles, { t with es := s.es }⟩

end
end

