-- ==== Sys2Proof/Laws/Memory.lean ====
section
/-! SUPPORT. The laws of store bytes: a read after a write, writes elsewhere, and that every write keeps the canonical form. -/

namespace Sys2Proof.Machine

/-! ## One store's cells -/

@[simp] theorem Memory.get_nil (a : Nat) : Memory.get [] a = 0x00#8 := rfl

theorem Memory.get_cons (c : Host.Cell) (m : Memory) (a : Nat) :
    Memory.get (c :: m) a = if c.1 = a then c.2 else Memory.get m a := rfl

theorem Memory.get_erase_same (m : Memory) (a : Nat) : Memory.get (Memory.erase m a) a = 0x00#8 := by
  induction m with
  | nil => rfl
  | cons c m ih =>
    by_cases h : c.1 = a
    · simpa [Memory.erase, h] using ih
    · simpa [Memory.erase, h, Memory.get_cons] using ih

theorem Memory.get_erase_other (m : Memory) {a b : Nat} (h : b ≠ a) : Memory.get (Memory.erase m a) b = Memory.get m b := by
  induction m with
  | nil => rfl
  | cons c m ih =>
    by_cases hc : c.1 = a
    · simpa [Memory.erase, hc, Memory.get_cons, Ne.symm h] using ih
    · by_cases hb : c.1 = b
      · simp [Memory.erase, hb, h, Memory.get_cons]
      · simpa [Memory.erase, hc, Memory.get_cons, hb] using ih

theorem Memory.get_insert_same (m : Memory) (a : Nat) (v : Byte) (h : ∀ c ∈ m, c.1 ≠ a) :
    Memory.get (Memory.insert m a v) a = v := by
  induction m with
  | nil => simp [Memory.insert, Memory.get_cons]
  | cons c m ih =>
    have hc : c.1 ≠ a := h c (by simp)
    by_cases hlt : a < c.1
    · simp [Memory.insert, hlt, Memory.get_cons]
    · simpa [Memory.insert, hlt, Memory.get_cons, hc] using ih fun d hd => h d (by simp [hd])

theorem Memory.get_insert_other (m : Memory) {a b : Nat} (v : Byte) (h : b ≠ a) :
    Memory.get (Memory.insert m a v) b = Memory.get m b := by
  induction m with
  | nil => simp [Memory.insert, Memory.get_cons, Ne.symm h]
  | cons c m ih =>
    by_cases hlt : a < c.1
    · simp [Memory.insert, hlt, Memory.get_cons, Ne.symm h]
    · simp [Memory.insert, hlt, Memory.get_cons, ih]

theorem Memory.not_mem_erase (m : Memory) (a : Nat) : ∀ c ∈ Memory.erase m a, c.1 ≠ a := by
  intro c hc
  simpa using (List.mem_filter.mp hc).2

theorem Memory.get_set_same (m : Memory) (a : Nat) (v : Byte) : Memory.get (Memory.set m a v) a = v := by
  unfold Memory.set
  split
  · next h => rw [Memory.get_erase_same, h]
  · exact Memory.get_insert_same _ _ _ (Memory.not_mem_erase m a)

theorem Memory.get_set_other (m : Memory) {a b : Nat} (v : Byte) (h : b ≠ a) : Memory.get (Memory.set m a v) b = Memory.get m b := by
  unfold Memory.set
  split
  · exact Memory.get_erase_other m h
  · rw [Memory.get_insert_other _ _ h, Memory.get_erase_other m h]

theorem Memory.mem_insert {m : Memory} {a : Nat} {v : Byte} {c : Host.Cell} (h : c ∈ Memory.insert m a v) :
    c = (a, v) ∨ c ∈ m := by
  induction m with
  | nil => simpa [Memory.insert] using h
  | cons d m ih =>
    by_cases hlt : a < d.1
    · simpa [Memory.insert, hlt] using h
    · simp only [Memory.insert, hlt, if_false, List.mem_cons] at h
      rcases h with rfl | h
      · simp
      · rcases ih h with rfl | h
        · simp
        · simp [h]

theorem Memory.insert_pairwise {m : Memory} {a : Nat} {v : Byte} (hm : m.Pairwise fun c d => c.1 < d.1)
    (h : ∀ c ∈ m, c.1 ≠ a) : (Memory.insert m a v).Pairwise fun c d => c.1 < d.1 := by
  induction m with
  | nil => simp [Memory.insert]
  | cons c m ih =>
    have hc := List.pairwise_cons.mp hm
    by_cases hlt : a < c.1
    · simp only [Memory.insert, hlt, if_true]
      refine List.pairwise_cons.mpr ⟨?_, hm⟩
      intro d hd
      rcases List.mem_cons.mp hd with rfl | hd
      · exact hlt
      · exact Nat.lt_trans hlt (hc.1 d hd)
    · simp only [Memory.insert, hlt, if_false]
      refine List.pairwise_cons.mpr ⟨?_, ih hc.2 fun d hd => h d (by simp [hd])⟩
      intro d hd
      have hca : c.1 ≠ a := h c (by simp)
      rcases Memory.mem_insert hd with rfl | hd
      · show c.1 < a; omega
      · exact hc.1 d hd

/-- Every write keeps the canonical form. -/
theorem Memory.set_wf {m : Memory} (a : Nat) (v : Byte) (hm : Memory.wf m) : Memory.wf (Memory.set m a v) := by
  have he : Memory.wf (Memory.erase m a) :=
    ⟨hm.1.filter _, fun c hc => hm.2 c (List.mem_filter.mp hc).1⟩
  unfold Memory.set
  split
  · exact he
  · next hv =>
    refine ⟨Memory.insert_pairwise he.1 (Memory.not_mem_erase m a), fun c hc => ?_⟩
    rcases Memory.mem_insert hc with rfl | hc
    · exact hv
    · exact he.2 c hc

/-- A write lists no index but the written one and those listed before. -/
theorem Memory.mem_set {m : Memory} {a : Nat} {v : Byte} {c : Host.Cell} (h : c ∈ Memory.set m a v) : c = (a, v) ∨ c ∈ m := by
  unfold Memory.set at h
  split at h
  · exact .inr (List.mem_filter.mp h).1
  · rcases Memory.mem_insert h with h | h
    · exact .inl h
    · exact .inr (List.mem_filter.mp h).1

/-! ## The stores -/

/-- All that a store write can do: the byte exists, and only its cell changes. -/
theorem storeWrite?_some {ts ts' : List Store} {s i : Nat} {v : Byte} (h : storeWrite? ts s i v = some ts') :
    ∃ t, ts[s]? = some t ∧ i < t.size ∧ ts' = ts.set s { t with cells := Memory.set t.cells i v } := by
  unfold storeWrite? at h
  split at h
  · cases h
  · next t ht =>
    split at h
    · next hi => exact ⟨t, ht, hi, (Option.some.inj h).symm⟩
    · cases h

/-- All that a store read can do. -/
theorem storeByte?_some {ts : List Store} {s i : Nat} {v : Byte} (h : storeByte? ts s i = some v) :
    ∃ t, ts[s]? = some t ∧ i < t.size ∧ v = Memory.get t.cells i := by
  unfold storeByte? at h
  split at h
  · cases h
  · next t ht =>
    split at h
    · next hi => exact ⟨t, ht, hi, (Option.some.inj h).symm⟩
    · cases h

theorem storeByte?_of {ts : List Store} {s i : Nat} {t : Store} (h : ts[s]? = some t) (hi : i < t.size) :
    storeByte? ts s i = some (Memory.get t.cells i) := by
  simp [storeByte?, h, hi]

/-- A read of the written byte gives the value written. -/
theorem storeByte?_write_same {ts ts' : List Store} {s i : Nat} {v : Byte} (h : storeWrite? ts s i v = some ts') :
    storeByte? ts' s i = some v := by
  obtain ⟨t, ht, hi, rfl⟩ := storeWrite?_some h
  obtain ⟨hs, -⟩ := List.getElem?_eq_some_iff.mp ht
  rw [storeByte?_of (t := { t with cells := Memory.set t.cells i v }) (by simp [hs]) hi]
  simp [Memory.get_set_same]

/-- A write leaves every other byte alone. -/
theorem storeByte?_write_other {ts ts' : List Store} {s i s' i' : Nat} {v : Byte} (h : storeWrite? ts s i v = some ts')
    (hne : (s', i') ≠ (s, i)) : storeByte? ts' s' i' = storeByte? ts s' i' := by
  obtain ⟨t, ht, hi, rfl⟩ := storeWrite?_some h
  obtain ⟨hs, e⟩ := List.getElem?_eq_some_iff.mp ht
  by_cases hss : s' = s
  · subst hss
    have hii : i' ≠ i := fun e => hne (by rw [e])
    simp [storeByte?, hs, e, Memory.get_set_other _ _ hii]
  · simp [storeByte?, List.getElem?_set_ne (Ne.symm hss)]

/-- A write keeps every store's length. -/
theorem storeWrite?_sizes {ts ts' : List Store} {s i : Nat} {v : Byte} (h : storeWrite? ts s i v = some ts') :
    ts'.map Store.size = ts.map Store.size := by
  obtain ⟨t, ht, hi, rfl⟩ := storeWrite?_some h
  obtain ⟨hs, e⟩ := List.getElem?_eq_some_iff.mp ht
  apply List.ext_getElem?
  intro k
  by_cases hk : s = k
  · subst hk; simp [hs, e]
  · simp [hk]

/-- A write keeps every store canonical. -/
theorem storeWrite?_wf {ts ts' : List Store} {s i : Nat} {v : Byte} (h : storeWrite? ts s i v = some ts')
    (hw : ∀ t ∈ ts, Store.wf t) : ∀ t ∈ ts', Store.wf t := by
  obtain ⟨t, ht, hi, rfl⟩ := storeWrite?_some h
  have hmem := List.mem_of_getElem? ht
  intro u hu
  rcases List.mem_or_eq_of_mem_set hu with hu | rfl
  · exact hw u hu
  · refine ⟨Memory.set_wf i v (hw t hmem).1, fun c hc => ?_⟩
    rcases Memory.mem_set hc with rfl | hc
    · exact hi
    · exact (hw t hmem).2 c hc

/-- Whether a byte exists depends on the lengths alone, so a write changes nothing about it. -/
theorem storeByte?_isSome_write {ts ts' : List Store} {s i s' i' : Nat} {v : Byte} (h : storeWrite? ts s i v = some ts') :
    (storeByte? ts' s' i').isSome = (storeByte? ts s' i').isSome := by
  by_cases hne : (s', i') = (s, i)
  · cases hne
    obtain ⟨t, ht, hi, -⟩ := storeWrite?_some h
    rw [storeByte?_write_same h, storeByte?_of ht hi]; rfl
  · rw [storeByte?_write_other h hne]

/-- A byte can be written just when it can be read. -/
theorem storeWrite?_isSome (ts : List Store) (s i : Nat) (v : Byte) :
    (storeWrite? ts s i v).isSome = (storeByte? ts s i).isSome := by
  unfold storeWrite? storeByte?
  split
  · rfl
  · split <;> rfl

end Sys2Proof.Machine
end

