-- ==== Sys2Proof/Laws/State.lean ====
section
/-! SUPPORT. What each named update of the state does to each field, one lemma a field, so that no later proof unfolds an update. -/

namespace Sys2Proof.Machine

@[simp] theorem loadA_a (v : Byte) (s : State) : (loadA v s).a = v := rfl
@[simp] theorem loadA_x (v : Byte) (s : State) : (loadA v s).x = s.x := rfl
@[simp] theorem loadA_y (v : Byte) (s : State) : (loadA v s).y = s.y := rfl
@[simp] theorem loadA_sp (v : Byte) (s : State) : (loadA v s).sp = s.sp := rfl
@[simp] theorem loadA_pc (v : Byte) (s : State) : (loadA v s).pc = s.pc := rfl
@[simp] theorem loadA_p (v : Byte) (s : State) : (loadA v s).p = setNZ v s.p := rfl
@[simp] theorem loadA_irq (v : Byte) (s : State) : (loadA v s).irq = s.irq := rfl
@[simp] theorem loadA_nmi (v : Byte) (s : State) : (loadA v s).nmi = s.nmi := rfl
@[simp] theorem loadA_cfg (v : Byte) (s : State) : (loadA v s).cfg = s.cfg := rfl
@[simp] theorem loadA_stores (v : Byte) (s : State) : (loadA v s).stores = s.stores := rfl
@[simp] theorem loadA_plat (v : Byte) (s : State) : (loadA v s).plat = s.plat := rfl
@[simp] theorem loadA_es (v : Byte) (s : State) : (loadA v s).es = s.es := rfl
@[simp] theorem loadA_params (v : Byte) (s : State) : (loadA v s).params = s.params := rfl

@[simp] theorem loadX_a (v : Byte) (s : State) : (loadX v s).a = s.a := rfl
@[simp] theorem loadX_x (v : Byte) (s : State) : (loadX v s).x = v := rfl
@[simp] theorem loadX_y (v : Byte) (s : State) : (loadX v s).y = s.y := rfl
@[simp] theorem loadX_sp (v : Byte) (s : State) : (loadX v s).sp = s.sp := rfl
@[simp] theorem loadX_pc (v : Byte) (s : State) : (loadX v s).pc = s.pc := rfl
@[simp] theorem loadX_p (v : Byte) (s : State) : (loadX v s).p = setNZ v s.p := rfl
@[simp] theorem loadX_irq (v : Byte) (s : State) : (loadX v s).irq = s.irq := rfl
@[simp] theorem loadX_nmi (v : Byte) (s : State) : (loadX v s).nmi = s.nmi := rfl
@[simp] theorem loadX_cfg (v : Byte) (s : State) : (loadX v s).cfg = s.cfg := rfl
@[simp] theorem loadX_stores (v : Byte) (s : State) : (loadX v s).stores = s.stores := rfl
@[simp] theorem loadX_plat (v : Byte) (s : State) : (loadX v s).plat = s.plat := rfl
@[simp] theorem loadX_es (v : Byte) (s : State) : (loadX v s).es = s.es := rfl
@[simp] theorem loadX_params (v : Byte) (s : State) : (loadX v s).params = s.params := rfl

@[simp] theorem loadY_a (v : Byte) (s : State) : (loadY v s).a = s.a := rfl
@[simp] theorem loadY_x (v : Byte) (s : State) : (loadY v s).x = s.x := rfl
@[simp] theorem loadY_y (v : Byte) (s : State) : (loadY v s).y = v := rfl
@[simp] theorem loadY_sp (v : Byte) (s : State) : (loadY v s).sp = s.sp := rfl
@[simp] theorem loadY_pc (v : Byte) (s : State) : (loadY v s).pc = s.pc := rfl
@[simp] theorem loadY_p (v : Byte) (s : State) : (loadY v s).p = setNZ v s.p := rfl
@[simp] theorem loadY_irq (v : Byte) (s : State) : (loadY v s).irq = s.irq := rfl
@[simp] theorem loadY_nmi (v : Byte) (s : State) : (loadY v s).nmi = s.nmi := rfl
@[simp] theorem loadY_cfg (v : Byte) (s : State) : (loadY v s).cfg = s.cfg := rfl
@[simp] theorem loadY_stores (v : Byte) (s : State) : (loadY v s).stores = s.stores := rfl
@[simp] theorem loadY_plat (v : Byte) (s : State) : (loadY v s).plat = s.plat := rfl
@[simp] theorem loadY_es (v : Byte) (s : State) : (loadY v s).es = s.es := rfl
@[simp] theorem loadY_params (v : Byte) (s : State) : (loadY v s).params = s.params := rfl

@[simp] theorem accumulate_a (f : Byte → Byte → Byte → Byte × Byte) (m : Byte) (s : State) : (accumulate f m s).a = (f s.p s.a m).1 := rfl
@[simp] theorem accumulate_x (f : Byte → Byte → Byte → Byte × Byte) (m : Byte) (s : State) : (accumulate f m s).x = s.x := rfl
@[simp] theorem accumulate_y (f : Byte → Byte → Byte → Byte × Byte) (m : Byte) (s : State) : (accumulate f m s).y = s.y := rfl
@[simp] theorem accumulate_sp (f : Byte → Byte → Byte → Byte × Byte) (m : Byte) (s : State) : (accumulate f m s).sp = s.sp := rfl
@[simp] theorem accumulate_pc (f : Byte → Byte → Byte → Byte × Byte) (m : Byte) (s : State) : (accumulate f m s).pc = s.pc := rfl
@[simp] theorem accumulate_p (f : Byte → Byte → Byte → Byte × Byte) (m : Byte) (s : State) : (accumulate f m s).p = (f s.p s.a m).2 := rfl
@[simp] theorem accumulate_irq (f : Byte → Byte → Byte → Byte × Byte) (m : Byte) (s : State) : (accumulate f m s).irq = s.irq := rfl
@[simp] theorem accumulate_nmi (f : Byte → Byte → Byte → Byte × Byte) (m : Byte) (s : State) : (accumulate f m s).nmi = s.nmi := rfl
@[simp] theorem accumulate_cfg (f : Byte → Byte → Byte → Byte × Byte) (m : Byte) (s : State) : (accumulate f m s).cfg = s.cfg := rfl
@[simp] theorem accumulate_stores (f : Byte → Byte → Byte → Byte × Byte) (m : Byte) (s : State) : (accumulate f m s).stores = s.stores := rfl
@[simp] theorem accumulate_plat (f : Byte → Byte → Byte → Byte × Byte) (m : Byte) (s : State) : (accumulate f m s).plat = s.plat := rfl
@[simp] theorem accumulate_es (f : Byte → Byte → Byte → Byte × Byte) (m : Byte) (s : State) : (accumulate f m s).es = s.es := rfl
@[simp] theorem accumulate_params (f : Byte → Byte → Byte → Byte × Byte) (m : Byte) (s : State) : (accumulate f m s).params = s.params := rfl

@[simp] theorem modifyA_a (f : Byte → Byte → Byte × Byte) (s : State) : (modifyA f s).a = (f s.p s.a).1 := rfl
@[simp] theorem modifyA_x (f : Byte → Byte → Byte × Byte) (s : State) : (modifyA f s).x = s.x := rfl
@[simp] theorem modifyA_y (f : Byte → Byte → Byte × Byte) (s : State) : (modifyA f s).y = s.y := rfl
@[simp] theorem modifyA_sp (f : Byte → Byte → Byte × Byte) (s : State) : (modifyA f s).sp = s.sp := rfl
@[simp] theorem modifyA_pc (f : Byte → Byte → Byte × Byte) (s : State) : (modifyA f s).pc = s.pc := rfl
@[simp] theorem modifyA_p (f : Byte → Byte → Byte × Byte) (s : State) : (modifyA f s).p = (f s.p s.a).2 := rfl
@[simp] theorem modifyA_irq (f : Byte → Byte → Byte × Byte) (s : State) : (modifyA f s).irq = s.irq := rfl
@[simp] theorem modifyA_nmi (f : Byte → Byte → Byte × Byte) (s : State) : (modifyA f s).nmi = s.nmi := rfl
@[simp] theorem modifyA_cfg (f : Byte → Byte → Byte × Byte) (s : State) : (modifyA f s).cfg = s.cfg := rfl
@[simp] theorem modifyA_stores (f : Byte → Byte → Byte × Byte) (s : State) : (modifyA f s).stores = s.stores := rfl
@[simp] theorem modifyA_plat (f : Byte → Byte → Byte × Byte) (s : State) : (modifyA f s).plat = s.plat := rfl
@[simp] theorem modifyA_es (f : Byte → Byte → Byte × Byte) (s : State) : (modifyA f s).es = s.es := rfl
@[simp] theorem modifyA_params (f : Byte → Byte → Byte × Byte) (s : State) : (modifyA f s).params = s.params := rfl

@[simp] theorem modifyX_a (f : Byte → Byte → Byte × Byte) (s : State) : (modifyX f s).a = s.a := rfl
@[simp] theorem modifyX_x (f : Byte → Byte → Byte × Byte) (s : State) : (modifyX f s).x = (f s.p s.x).1 := rfl
@[simp] theorem modifyX_y (f : Byte → Byte → Byte × Byte) (s : State) : (modifyX f s).y = s.y := rfl
@[simp] theorem modifyX_sp (f : Byte → Byte → Byte × Byte) (s : State) : (modifyX f s).sp = s.sp := rfl
@[simp] theorem modifyX_pc (f : Byte → Byte → Byte × Byte) (s : State) : (modifyX f s).pc = s.pc := rfl
@[simp] theorem modifyX_p (f : Byte → Byte → Byte × Byte) (s : State) : (modifyX f s).p = (f s.p s.x).2 := rfl
@[simp] theorem modifyX_irq (f : Byte → Byte → Byte × Byte) (s : State) : (modifyX f s).irq = s.irq := rfl
@[simp] theorem modifyX_nmi (f : Byte → Byte → Byte × Byte) (s : State) : (modifyX f s).nmi = s.nmi := rfl
@[simp] theorem modifyX_cfg (f : Byte → Byte → Byte × Byte) (s : State) : (modifyX f s).cfg = s.cfg := rfl
@[simp] theorem modifyX_stores (f : Byte → Byte → Byte × Byte) (s : State) : (modifyX f s).stores = s.stores := rfl
@[simp] theorem modifyX_plat (f : Byte → Byte → Byte × Byte) (s : State) : (modifyX f s).plat = s.plat := rfl
@[simp] theorem modifyX_es (f : Byte → Byte → Byte × Byte) (s : State) : (modifyX f s).es = s.es := rfl
@[simp] theorem modifyX_params (f : Byte → Byte → Byte × Byte) (s : State) : (modifyX f s).params = s.params := rfl

@[simp] theorem modifyY_a (f : Byte → Byte → Byte × Byte) (s : State) : (modifyY f s).a = s.a := rfl
@[simp] theorem modifyY_x (f : Byte → Byte → Byte × Byte) (s : State) : (modifyY f s).x = s.x := rfl
@[simp] theorem modifyY_y (f : Byte → Byte → Byte × Byte) (s : State) : (modifyY f s).y = (f s.p s.y).1 := rfl
@[simp] theorem modifyY_sp (f : Byte → Byte → Byte × Byte) (s : State) : (modifyY f s).sp = s.sp := rfl
@[simp] theorem modifyY_pc (f : Byte → Byte → Byte × Byte) (s : State) : (modifyY f s).pc = s.pc := rfl
@[simp] theorem modifyY_p (f : Byte → Byte → Byte × Byte) (s : State) : (modifyY f s).p = (f s.p s.y).2 := rfl
@[simp] theorem modifyY_irq (f : Byte → Byte → Byte × Byte) (s : State) : (modifyY f s).irq = s.irq := rfl
@[simp] theorem modifyY_nmi (f : Byte → Byte → Byte × Byte) (s : State) : (modifyY f s).nmi = s.nmi := rfl
@[simp] theorem modifyY_cfg (f : Byte → Byte → Byte × Byte) (s : State) : (modifyY f s).cfg = s.cfg := rfl
@[simp] theorem modifyY_stores (f : Byte → Byte → Byte × Byte) (s : State) : (modifyY f s).stores = s.stores := rfl
@[simp] theorem modifyY_plat (f : Byte → Byte → Byte × Byte) (s : State) : (modifyY f s).plat = s.plat := rfl
@[simp] theorem modifyY_es (f : Byte → Byte → Byte × Byte) (s : State) : (modifyY f s).es = s.es := rfl
@[simp] theorem modifyY_params (f : Byte → Byte → Byte × Byte) (s : State) : (modifyY f s).params = s.params := rfl

@[simp] theorem status_a (f : Byte → Byte) (s : State) : (status f s).a = s.a := rfl
@[simp] theorem status_x (f : Byte → Byte) (s : State) : (status f s).x = s.x := rfl
@[simp] theorem status_y (f : Byte → Byte) (s : State) : (status f s).y = s.y := rfl
@[simp] theorem status_sp (f : Byte → Byte) (s : State) : (status f s).sp = s.sp := rfl
@[simp] theorem status_pc (f : Byte → Byte) (s : State) : (status f s).pc = s.pc := rfl
@[simp] theorem status_p (f : Byte → Byte) (s : State) : (status f s).p = f s.p := rfl
@[simp] theorem status_irq (f : Byte → Byte) (s : State) : (status f s).irq = s.irq := rfl
@[simp] theorem status_nmi (f : Byte → Byte) (s : State) : (status f s).nmi = s.nmi := rfl
@[simp] theorem status_cfg (f : Byte → Byte) (s : State) : (status f s).cfg = s.cfg := rfl
@[simp] theorem status_stores (f : Byte → Byte) (s : State) : (status f s).stores = s.stores := rfl
@[simp] theorem status_plat (f : Byte → Byte) (s : State) : (status f s).plat = s.plat := rfl
@[simp] theorem status_es (f : Byte → Byte) (s : State) : (status f s).es = s.es := rfl
@[simp] theorem status_params (f : Byte → Byte) (s : State) : (status f s).params = s.params := rfl

@[simp] theorem advance_a (i : Instr) (s : State) : (advance i s).a = s.a := rfl
@[simp] theorem advance_x (i : Instr) (s : State) : (advance i s).x = s.x := rfl
@[simp] theorem advance_y (i : Instr) (s : State) : (advance i s).y = s.y := rfl
@[simp] theorem advance_sp (i : Instr) (s : State) : (advance i s).sp = s.sp := rfl
@[simp] theorem advance_pc (i : Instr) (s : State) : (advance i s).pc = s.pc + BitVec.ofNat 16 i.length := rfl
@[simp] theorem advance_p (i : Instr) (s : State) : (advance i s).p = s.p := rfl
@[simp] theorem advance_irq (i : Instr) (s : State) : (advance i s).irq = s.irq := rfl
@[simp] theorem advance_nmi (i : Instr) (s : State) : (advance i s).nmi = s.nmi := rfl
@[simp] theorem advance_cfg (i : Instr) (s : State) : (advance i s).cfg = s.cfg := rfl
@[simp] theorem advance_stores (i : Instr) (s : State) : (advance i s).stores = s.stores := rfl
@[simp] theorem advance_plat (i : Instr) (s : State) : (advance i s).plat = s.plat := rfl
@[simp] theorem advance_es (i : Instr) (s : State) : (advance i s).es = s.es := rfl
@[simp] theorem advance_params (i : Instr) (s : State) : (advance i s).params = s.params := rfl

@[simp] theorem retire_a (i : Instr) (n : Nat) (s : State) : (retire i n s).a = s.a := rfl
@[simp] theorem retire_x (i : Instr) (n : Nat) (s : State) : (retire i n s).x = s.x := rfl
@[simp] theorem retire_y (i : Instr) (n : Nat) (s : State) : (retire i n s).y = s.y := rfl
@[simp] theorem retire_sp (i : Instr) (n : Nat) (s : State) : (retire i n s).sp = s.sp := rfl
@[simp] theorem retire_pc (i : Instr) (n : Nat) (s : State) : (retire i n s).pc = s.pc := rfl
@[simp] theorem retire_p (i : Instr) (n : Nat) (s : State) : (retire i n s).p = s.p := rfl
@[simp] theorem retire_irq (i : Instr) (n : Nat) (s : State) : (retire i n s).irq = s.irq := rfl
@[simp] theorem retire_nmi (i : Instr) (n : Nat) (s : State) : (retire i n s).nmi = s.nmi := rfl
@[simp] theorem retire_cfg (i : Instr) (n : Nat) (s : State) : (retire i n s).cfg = s.cfg := rfl
@[simp] theorem retire_stores (i : Instr) (n : Nat) (s : State) : (retire i n s).stores = s.stores := rfl
@[simp] theorem retire_plat (i : Instr) (n : Nat) (s : State) : (retire i n s).plat = s.plat := rfl
@[simp] theorem retire_es (i : Instr) (n : Nat) (s : State) : (retire i n s).es = s.accounted i (i.row.cycles + n) := rfl
@[simp] theorem retire_params (i : Instr) (n : Nat) (s : State) : (retire i n s).params = s.params := rfl

end Sys2Proof.Machine
end

