-- ==== Sys2Proof/Laws/Ops.lean ====
section
/-! SUPPORT. What each shared operation can do, said once: sequencing, the access primitives and their callbacks (`Kept` is what no
access touches), plain reads and writes, the stack, and taking a trap. -/

namespace Sys2Proof.Machine

/-! ## Sequencing -/

section
variable {α β : Type}

@[simp] theorem andThen_next (v : α) (f : α → Result β) : andThen (.next v) f = f v := rfl
@[simp] theorem andThen_fault (e : Fault) (f : α → Result β) : andThen (.fault e) f = .fault e := rfl
@[simp] theorem andThen_refused (e : Refusal) (f : α → Result β) : andThen (.refused e) f = .refused e := rfl

/-- A sequence answers only through its first part's answer. -/
theorem andThen_eq_next {r : Result α} {f : α → Result β} {w : β} :
    andThen r f = .next w ↔ ∃ v, r = .next v ∧ f v = .next w := by
  cases r <;> simp

/-- A sequence faults in its first part or, after it, in its second. -/
theorem andThen_eq_fault {r : Result α} {f : α → Result β} {e : Fault} :
    andThen r f = .fault e ↔ r = .fault e ∨ ∃ v, r = .next v ∧ f v = .fault e := by
  cases r <;> simp

/-- A sequence is refused in its first part or, after it, in its second. -/
theorem andThen_eq_refused {r : Result α} {f : α → Result β} {e : Refusal} :
    andThen r f = .refused e ↔ r = .refused e ∨ ∃ v, r = .next v ∧ f v = .refused e := by
  cases r <;> simp

end

/-! ## What no memory access touches -/

/-- `t` has the CPU registers, the counters and the parameters of `s`; stores keep their lengths and canonical form, and the
active configuration stays one that exists. -/
structure Kept (s t : State) : Prop where
  a : t.a = s.a
  x : t.x = s.x
  y : t.y = s.y
  sp : t.sp = s.sp
  pc : t.pc = s.pc
  p : t.p = s.p
  es : t.es = s.es
  params : t.params = s.params
  sizes : t.sizes = s.sizes
  memoryWf : s.memoryWf → t.memoryWf
  cfg : s.cfg < s.params.count → t.cfg < t.params.count

theorem Kept.refl (s : State) : Kept s s := ⟨rfl, rfl, rfl, rfl, rfl, rfl, rfl, rfl, rfl, id, id⟩

theorem Kept.trans {s t u : State} (h : Kept s t) (k : Kept t u) : Kept s u :=
  ⟨k.a.trans h.a, k.x.trans h.x, k.y.trans h.y, k.sp.trans h.sp, k.pc.trans h.pc, k.p.trans h.p, k.es.trans h.es,
    k.params.trans h.params, k.sizes.trans h.sizes, k.memoryWf ∘ h.memoryWf, k.cfg ∘ h.cfg⟩

/-- Latches and platform state are none of the fields `Kept` speaks of. -/
theorem Kept.latches (s : State) (irq nmi : Bool) (plat : Plat) : Kept s { s with irq := irq, nmi := nmi, plat := plat } :=
  ⟨rfl, rfl, rfl, rfl, rfl, rfl, rfl, rfl, rfl, id, id⟩

/-- All a store write can do: the byte exists and the stores change in it alone. -/
theorem writeStoreByte_next {w : StoreWrite} {s t : State} (h : writeStoreByte w s = .next t) :
    ∃ ts, storeWrite? s.stores w.store w.index w.value = some ts ∧ t = { s with stores := ts } := by
  unfold writeStoreByte at h
  split at h
  · next ts hts => exact ⟨ts, hts, by injection h with h; exact h.symm⟩
  · cases h

theorem writeStoreByte_kept {w : StoreWrite} {s t : State} (h : writeStoreByte w s = .next t) : Kept s t := by
  obtain ⟨ts, hts, rfl⟩ := writeStoreByte_next h
  exact ⟨rfl, rfl, rfl, rfl, rfl, rfl, rfl, rfl, storeWrite?_sizes hts, storeWrite?_wf hts, id⟩

theorem writeStoreBytes_kept {ws : List StoreWrite} {s t : State} (h : writeStoreBytes ws s = .next t) : Kept s t := by
  induction ws generalizing s with
  | nil => injection h with h; exact h ▸ Kept.refl s
  | cons w ws ih =>
    obtain ⟨u, hu, hrest⟩ := andThen_eq_next.mp h
    exact (writeStoreByte_kept hu).trans (ih hrest)

/-- All a configuration switch can do (R80). -/
theorem setMemoryConfiguration_next {i : Int} {s t : State} (h : setMemoryConfiguration i s = .next t) :
    0 ≤ i ∧ i < s.params.count ∧ t = { s with cfg := i.toNat } := by
  unfold setMemoryConfiguration at h
  split at h
  · next hi => exact ⟨hi.1, hi.2, by injection h with h; exact h.symm⟩
  · cases h

theorem setMemoryConfiguration_kept {i : Int} {s t : State} (h : setMemoryConfiguration i s = .next t) : Kept s t := by
  obtain ⟨h0, h1, rfl⟩ := setMemoryConfiguration_next h
  exact ⟨rfl, rfl, rfl, rfl, rfl, rfl, rfl, rfl, rfl, id, fun _ => by show i.toNat < s.params.count; omega⟩

theorem switchIfAsked_kept {i : Option Int} {s t : State} (h : switchIfAsked i s = .next t) : Kept s t := by
  cases i with
  | none => injection h with h; exact h ▸ Kept.refl s
  | some i => exact setMemoryConfiguration_kept h

theorem applyEffects_kept {e : Effects} {s t : State} (h : applyEffects e s = .next t) : Kept s t := by
  obtain ⟨u, hu, h⟩ := andThen_eq_next.mp h
  obtain ⟨v, hv, h⟩ := andThen_eq_next.mp h
  injection h with h
  exact ((writeStoreBytes_kept hu).trans (switchIfAsked_kept hv)).trans (h ▸ Kept.latches v _ _ v.plat)

theorem memRead_kept {a : Word} {v : Byte} {s t : State} (h : memRead a s = .next (v, t)) : Kept s t := by
  unfold memRead at h
  split at h
  · cases h
  · split at h
    · injection h with h; injection h with _ h; exact h ▸ Kept.refl s
    · cases h
  · obtain ⟨u, hu, h⟩ := andThen_eq_next.mp h
    injection h with h; injection h with _ h
    exact (Kept.latches s s.irq s.nmi _).trans (h ▸ applyEffects_kept hu)

theorem memWrite_kept {a : Word} {v : Byte} {s t : State} (h : memWrite a v s = .next t) : Kept s t := by
  unfold memWrite at h
  split at h
  · cases h
  · exact writeStoreByte_kept h
  · injection h with h; exact h ▸ Kept.refl s
  · exact (Kept.latches s s.irq s.nmi _).trans (applyEffects_kept h)

theorem memReadWord_kept {a : Word} {w : Word} {s t : State} (h : memReadWord a s = .next (w, t)) : Kept s t := by
  obtain ⟨⟨lo, u⟩, hu, h⟩ := andThen_eq_next.mp h
  obtain ⟨⟨hi, v⟩, hv, h⟩ := andThen_eq_next.mp h
  injection h with h; injection h with _ h
  exact h ▸ (memRead_kept hu).trans (memRead_kept hv)

theorem fetchBytes_kept {n : Nat} {a : Word} {bs : List Byte} {s t : State} (h : fetchBytes n a s = .next (bs, t)) : Kept s t := by
  induction n generalizing a bs s t with
  | zero => injection h with h; injection h with _ h; exact h ▸ Kept.refl s
  | succ n ih =>
    obtain ⟨⟨b, u⟩, hu, h⟩ := andThen_eq_next.mp h
    obtain ⟨⟨bs', v⟩, hv, h⟩ := andThen_eq_next.mp h
    injection h with h; injection h with _ h
    exact h ▸ (memRead_kept hu).trans (ih hv)

/-- A fetch changes nothing but what a Reader it hits changes. -/
theorem fetch_kept {f : Fetched} {s t : State} (h : fetch s = .next (f, t)) : Kept s t := by
  obtain ⟨⟨b0, u⟩, hu, h⟩ := andThen_eq_next.mp h
  dsimp only at h
  split at h
  · injection h with h; injection h with _ h
    exact h ▸ memRead_kept hu
  · obtain ⟨⟨bs, v⟩, hv, h⟩ := andThen_eq_next.mp h
    have hk := (memRead_kept hu).trans (fetchBytes_kept hv)
    dsimp only at h
    split at h <;> · injection h with h; injection h with _ h; exact h ▸ hk

/-- The observer window changes nothing but shared stores, latches and platform state (R155, R392). -/
theorem observe_kept {n : Nat} {s t : State} (h : observe n s = .next t) : Kept s t := by
  unfold observe at h
  split at h
  · injection h with h; exact h ▸ Kept.refl s
  · obtain ⟨u, hu, h⟩ := andThen_eq_next.mp h
    injection h with h
    exact ((Kept.latches s s.irq s.nmi _).trans (writeStoreBytes_kept hu)).trans (h ▸ Kept.latches u _ _ u.plat)

/-! ## Plain reads and writes -/

theorem memRead_of_peek {a : Word} {v : Byte} {s : State} (h : s.peek a = some v) : memRead a s = .next (v, s) := by
  unfold State.peek at h
  split at h
  · next st i hb => simp [memRead, hb, h]
  · cases h

theorem memWrite_of_poke {a : Word} {v : Byte} {s t : State} (h : s.poke a v = some t) : memWrite a v s = .next t := by
  unfold State.poke at h
  split at h
  · next st i hb =>
    obtain ⟨ts, hts, rfl⟩ := Option.map_eq_some_iff.mp h
    simp [memWrite, hb, writeStoreByte, hts]
  · next hb => injection h with h; subst h; simp [memWrite, hb]
  · cases h

/-- All a plain write can do: nothing but the stores change, and in them only the byte the write table names. -/
theorem poke_some {a : Word} {v : Byte} {s t : State} (h : s.poke a v = some t) :
    (writeBinding s a = .drop ∧ t = s) ∨
    ∃ st i ts, writeBinding s a = .array st i ∧ storeWrite? s.stores st i v = some ts ∧ t = { s with stores := ts } := by
  unfold State.poke at h
  split at h
  · next st i hb =>
    obtain ⟨ts, hts, rfl⟩ := Option.map_eq_some_iff.mp h
    exact .inr ⟨st, i, ts, hb, hts, rfl⟩
  · next hb => exact .inl ⟨hb, (Option.some.inj h).symm⟩
  · cases h

/-- A plain write changes nothing but the stores. -/
theorem poke_stores {a : Word} {v : Byte} {s t : State} (h : s.poke a v = some t) : t = { s with stores := t.stores } := by
  rcases poke_some h with ⟨-, rfl⟩ | ⟨st, i, ts, -, -, rfl⟩ <;> rfl

/-- A plain write changes no binding. -/
theorem poke_readBinding {a : Word} {v : Byte} {s t : State} (h : s.poke a v = some t) (b : Word) :
    readBinding t b = readBinding s b := by
  rw [poke_stores h]; rfl

theorem poke_writeBinding {a : Word} {v : Byte} {s t : State} (h : s.poke a v = some t) (b : Word) :
    writeBinding t b = writeBinding s b := by
  rw [poke_stores h]; rfl

theorem peek_array {s : State} {b : Word} {st i : Nat} (h : readBinding s b = .array st i) :
    s.peek b = storeByte? s.stores st i := by simp [State.peek, h]

theorem peek_eq_none {s : State} {b : Word} (h : ∀ st i, readBinding s b ≠ .array st i) : s.peek b = none := by
  unfold State.peek
  split
  · next st i hb => exact absurd hb (h st i)
  · rfl

/-- A read of a byte a plain write did not touch. -/
theorem peek_of_storeWrite {s : State} {ts : List Store} {st i : Nat} {v : Byte} (b : Word)
    (h : storeWrite? s.stores st i v = some ts) (hne : readBinding s b ≠ .array st i) :
    State.peek { s with stores := ts } b = s.peek b := by
  by_cases hr : ∃ s' i', readBinding s b = .array s' i'
  · obtain ⟨s', i', hr⟩ := hr
    rw [peek_array hr, peek_array (s := { s with stores := ts }) hr]
    exact storeByte?_write_other h fun e => hne (by injection e with e1 e2; rw [hr, e1, e2])
  · have hr' : ∀ s' i', readBinding s b ≠ .array s' i' := fun s' i' e => hr ⟨s', i', e⟩
    rw [peek_eq_none hr', peek_eq_none (s := { s with stores := ts }) hr']

/-- What a read gives depends on the store bytes alone, so it is enough to frame those. -/
theorem SameBytesBut.of_bytes {cells : List Word} {s t : State} (hp : t.params = s.params)
    (h : ∀ st i, (∀ a ∈ cells, writeBinding s a ≠ .array st i) → storeByte? t.stores st i = storeByte? s.stores st i) :
    SameBytesBut cells s t where
  bytes := h
  reads c b hb := by
    have hr : readBinding { t with cfg := c } b = readBinding { s with cfg := c } b := by simp only [readBinding, activeOps, hp]
    simp only [State.peek, hr]
    split
    · next st i e => exact h st i fun a ha hw => hb a ha ⟨st, i, hw, e⟩
    · rfl

theorem SameBytesBut.refl (cells : List Word) (s : State) : SameBytesBut cells s s := ⟨fun _ _ _ => rfl, fun _ _ _ => rfl⟩

/-- In the active configuration, where that has not changed. -/
theorem SameBytesBut.peek {cells : List Word} {s t : State} (h : SameBytesBut cells s t) (hc : t.cfg = s.cfg) {b : Word}
    (hb : ∀ a ∈ cells, ¬ s.Shares a b) : t.peek b = s.peek b := by
  have e : ({ t with cfg := s.cfg } : State) = t := by rw [← hc]
  rw [← e]
  exact h.reads s.cfg b hb

/-- The frame of a plain write (R85). -/
theorem poke_sameBytesBut {a : Word} {v : Byte} {s t : State} (h : s.poke a v = some t) : SameBytesBut [a] s t := by
  rcases poke_some h with ⟨-, rfl⟩ | ⟨st, i, ts, hw, hts, rfl⟩
  · exact SameBytesBut.refl _ _
  · refine .of_bytes rfl fun st' i' hb => storeByte?_write_other hts fun e => hb a (by simp) ?_
    injection e with e1 e2
    rw [hw, e1, e2]

/-- A read that shares the written byte gives the value written (R85). -/
theorem peek_of_poke_shares {a b : Word} {v : Byte} {s t : State} (h : s.poke a v = some t) (hs : s.Shares a b) :
    t.peek b = some v := by
  obtain ⟨st, i, hw, hr⟩ := hs
  rcases poke_some h with ⟨hd, -⟩ | ⟨st', i', ts, hw', hts, rfl⟩
  · rw [hw] at hd; cases hd
  · rw [hw] at hw'
    injection hw' with e1 e2
    subst e1; subst e2
    rw [peek_array (s := { s with stores := ts }) hr]
    exact storeByte?_write_same hts

/-- Which bytes can be read and written plainly, a plain write leaves as it was. -/
theorem poke_plain {a : Word} {v : Byte} {s t : State} (h : s.poke a v = some t) (hp : s.Plain) : t.Plain := by
  rcases poke_some h with ⟨-, rfl⟩ | ⟨st, i, ts, hw, hts, rfl⟩
  · exact hp
  · intro b
    have hb := hp b
    refine ⟨?_, fun w => ?_⟩
    · by_cases hr : ∃ s' i', readBinding s b = .array s' i'
      · obtain ⟨s', i', hr⟩ := hr
        rw [peek_array (s := { s with stores := ts }) hr]
        show (storeByte? ts s' i').isSome = true
        rw [storeByte?_isSome_write hts, ← peek_array hr]; exact hb.1
      · have := hb.1
        rw [peek_eq_none fun s' i' e => hr ⟨s', i', e⟩] at this
        cases this
    · have hw' := hb.2 w
      cases hwb : writeBinding s b with
      | unbound => simp [State.poke, hwb] at hw'
      | writer g => simp [State.poke, hwb] at hw'
      | drop =>
        have : writeBinding { s with stores := ts } b = .drop := hwb
        simp [State.poke, this]
      | array s' i' =>
        have : writeBinding { s with stores := ts } b = .array s' i' := hwb
        simp only [State.poke, hwb, Option.isSome_map, storeWrite?_isSome] at hw'
        simp only [State.poke, this, Option.isSome_map, storeWrite?_isSome, storeByte?_isSome_write hts]
        exact hw'

/-- Plain writes change nothing but the stores. -/
theorem pokes_stores {cs : List (Word × Byte)} {s t : State} (h : s.pokes cs = some t) : t = { s with stores := t.stores } := by
  induction cs generalizing s with
  | nil => injection h with h; subst h; rfl
  | cons c cs ih =>
    obtain ⟨u, hu, h⟩ := Option.bind_eq_some_iff.mp h
    have h2 := ih h
    rw [poke_stores hu] at h2
    exact h2

/-! ## The stack and traps -/

/-- All a push can do: one write in page 1, then SP one lower (R180). -/
theorem push_next {v : Byte} {s t : State} (h : push v s = .next t) :
    ∃ u, memWrite (stackAddress s.sp) v s = .next u ∧ t = { u with sp := s.sp - 1#8 } := by
  obtain ⟨u, hu, h⟩ := andThen_eq_next.mp h
  injection h with h
  exact ⟨u, hu, by rw [← h, (memWrite_kept hu).sp]⟩

/-- All a pull can do: SP one higher, then one read in page 1 (R181). -/
theorem pull_next {v : Byte} {s t : State} (h : pull s = .next (v, t)) :
    memRead (stackAddress (s.sp + 1#8)) { s with sp := s.sp + 1#8 } = .next (v, t) ∧ t.sp = s.sp + 1#8 :=
  ⟨h, (memRead_kept h).sp⟩

theorem push_of_poke {v : Byte} {s t : State} (h : s.poke (stackAddress s.sp) v = some t) :
    push v s = .next { t with sp := s.sp - 1#8 } := by
  have ht : t.sp = s.sp := by rw [poke_stores h]
  simp [push, memWrite_of_poke h, ht]

theorem pull_of_peek {v : Byte} {s : State} (h : s.peek (stackAddress (s.sp + 1#8)) = some v) :
    pull s = .next (v, { s with sp := s.sp + 1#8 }) :=
  memRead_of_peek (s := { s with sp := s.sp + 1#8 }) h

/-- What an access keeps, it keeps beside any change of registers made on both sides. -/
theorem Kept.withRegisters {s t : State} (h : Kept s t) (a x y sp : Byte) (pc : Word) (p : Byte) (es : ExecState) :
    Kept { s with a := a, x := x, y := y, sp := sp, pc := pc, p := p, es := es }
      { t with a := a, x := x, y := y, sp := sp, pc := pc, p := p, es := es } :=
  ⟨rfl, rfl, rfl, rfl, rfl, rfl, rfl, h.params, h.sizes, h.memoryWf, h.cfg⟩

/-- A push keeps everything but SP, which it sets (R180). -/
theorem push_kept {v : Byte} {s t : State} (h : push v s = .next t) : Kept { s with sp := s.sp - 1#8 } t := by
  obtain ⟨u, hu, rfl⟩ := push_next h
  have k := memWrite_kept hu
  exact ⟨k.a, k.x, k.y, rfl, k.pc, k.p, k.es, k.params, k.sizes, k.memoryWf, k.cfg⟩

/-- A pull keeps everything but SP, which it sets (R181). -/
theorem pull_kept {v : Byte} {s t : State} (h : pull s = .next (v, t)) : Kept { s with sp := s.sp + 1#8 } t := memRead_kept h

theorem pushWord_kept {w : Word} {s t : State} (h : pushWord w s = .next t) : Kept { s with sp := s.sp - 2#8 } t := by
  obtain ⟨u, hu, h⟩ := andThen_eq_next.mp h
  have k1 := push_kept hu
  have k2 := push_kept h
  have e : u.sp - 1#8 = s.sp - 2#8 := by rw [k1.sp]; show s.sp - 1#8 - 1#8 = _; bv_omega
  rw [e] at k2
  have k : Kept { s with sp := s.sp - 2#8 } { u with sp := s.sp - 2#8 } :=
    ⟨k1.a, k1.x, k1.y, rfl, k1.pc, k1.p, k1.es, k1.params, k1.sizes, k1.memoryWf, k1.cfg⟩
  exact k.trans k2

theorem pullWord_kept {w : Word} {s t : State} (h : pullWord s = .next (w, t)) : Kept { s with sp := s.sp + 2#8 } t := by
  obtain ⟨⟨lo, u⟩, hu, h⟩ := andThen_eq_next.mp h
  obtain ⟨⟨hi, v⟩, hv, h⟩ := andThen_eq_next.mp h
  injection h with h; injection h with _ h
  subst h
  have k1 := pull_kept hu
  have k2 := pull_kept hv
  have e : u.sp + 1#8 = s.sp + 2#8 := by rw [k1.sp]; show s.sp + 1#8 + 1#8 = _; bv_omega
  rw [e] at k2
  have k : Kept { s with sp := s.sp + 2#8 } { u with sp := s.sp + 2#8 } :=
    ⟨k1.a, k1.x, k1.y, rfl, k1.pc, k1.p, k1.es, k1.params, k1.sizes, k1.memoryWf, k1.cfg⟩
  exact k.trans k2

/-- A trap keeps everything but SP, `P.I` and PC (R336). -/
theorem takeTrap_kept {ret : Word} {copy : Byte} {vector : Word} {s t : State} (h : takeTrap ret copy vector s = .next t) :
    Kept { s with sp := s.sp - 3#8, p := setI true s.p, pc := t.pc } t := by
  obtain ⟨u2, h2, h⟩ := andThen_eq_next.mp h
  obtain ⟨u3, h3, h⟩ := andThen_eq_next.mp h
  obtain ⟨⟨w, u4⟩, h4, h⟩ := andThen_eq_next.mp h
  injection h with h
  subst h
  have k2 := pushWord_kept h2
  have k3 := push_kept h3
  have k4 := memReadWord_kept h4
  have e3 : u3.sp = s.sp - 3#8 := by rw [k3.sp]; show u2.sp - 1#8 = _; rw [k2.sp]; show s.sp - 2#8 - 1#8 = _; bv_omega
  have ep : u3.p = s.p := k3.p.trans k2.p
  refine ⟨?_, ?_, ?_, ?_, rfl, ?_, ?_, ?_, ?_, ?_, ?_⟩
  · exact k4.a.trans (k3.a.trans k2.a)
  · exact k4.x.trans (k3.x.trans k2.x)
  · exact k4.y.trans (k3.y.trans k2.y)
  · exact k4.sp.trans e3
  · exact k4.p.trans (congrArg (setI true) ep)
  · exact k4.es.trans (k3.es.trans k2.es)
  · exact k4.params.trans (k3.params.trans k2.params)
  · exact k4.sizes.trans (k3.sizes.trans k2.sizes)
  · exact fun hw => k4.memoryWf (k3.memoryWf (k2.memoryWf hw))
  · exact fun hc => k4.cfg (k3.cfg (k2.cfg hc))

/-- A hardware interrupt entry keeps everything but SP, `P.I`, PC and the cycle count (R336, R338). -/
theorem interruptEntry_kept {vector : Word} {s t : State} (h : interruptEntry vector s = .next t) :
    Kept { s with
      sp := s.sp - 3#8, p := setI true s.p, pc := t.pc
      es := { s.es with cycles := s.es.cycles + s.params.interruptCycles } } t := by
  obtain ⟨u, hu, h⟩ := andThen_eq_next.mp h
  injection h with h
  subst h
  have k := takeTrap_kept hu
  refine ⟨k.a, k.x, k.y, k.sp, rfl, k.p, ?_, k.params, k.sizes, k.memoryWf, k.cfg⟩
  show { u.es with cycles := u.es.cycles + u.params.interruptCycles } = _
  rw [k.es, k.params]

/-- Returning from a trap sets SP, PC and the six loaded flags, and keeps everything else (R320). -/
theorem returnFromTrap_kept {s t : State} (h : returnFromTrap s = .next t) :
    Kept { s with sp := s.sp + 3#8, p := t.p, pc := t.pc } t ∧ ∃ v, t.p = pulledStatus v s.p := by
  obtain ⟨⟨v, u⟩, hu, h⟩ := andThen_eq_next.mp h
  obtain ⟨⟨w, u2⟩, h2, h⟩ := andThen_eq_next.mp h
  injection h with h
  subst h
  have k1 := pull_kept hu
  have k2 := pullWord_kept h2
  have e : u2.sp = s.sp + 3#8 := by
    rw [k2.sp]; show u.sp + 2#8 = _; rw [k1.sp]; show s.sp + 1#8 + 2#8 = _; bv_omega
  refine ⟨⟨k2.a.trans k1.a, k2.x.trans k1.x, k2.y.trans k1.y, e, rfl, rfl, k2.es.trans k1.es, k2.params.trans k1.params,
    k2.sizes.trans k1.sizes, fun hw => k2.memoryWf (k1.memoryWf hw), fun hc => k2.cfg (k1.cfg hc)⟩, v, ?_⟩
  exact k2.p.trans (congrArg (pulledStatus v) k1.p)

/-- Everything the poll can do (R333, R334): one NMI entry, one IRQ entry, or nothing. -/
theorem poll_cases {s t : State} (h : poll s = .next t) :
    (s.nmi = true ∧ ∃ u, interruptEntry Config.nmiVector s = .next u ∧ t = { u with nmi := false }) ∨
    (s.nmi = false ∧ s.irq = true ∧ flagI s.p = false ∧
      ∃ u, interruptEntry Config.irqVector s = .next u ∧ t = { u with irq := false }) ∨
    (s.nmi = false ∧ (s.irq = false ∨ flagI s.p = true) ∧ t = s) := by
  unfold poll at h
  split at h
  · next hn =>
    obtain ⟨u, hu, h⟩ := andThen_eq_next.mp h
    injection h with h
    exact .inl ⟨hn, u, hu, h.symm⟩
  · next hn =>
    have hn' : s.nmi = false := by simpa using hn
    split at h
    · next hi =>
      obtain ⟨u, hu, h⟩ := andThen_eq_next.mp h
      injection h with h
      have hi' : s.irq = true ∧ flagI s.p = false := by simpa using hi
      exact .inr (.inl ⟨hn', hi'.1, hi'.2, u, hu, h.symm⟩)
    · next hi =>
      injection h with h
      refine .inr (.inr ⟨hn', ?_, h.symm⟩)
      revert hi
      cases s.irq <;> cases flagI s.p <;> simp

end Sys2Proof.Machine
end

