-- ==== Sys2Proof/Laws/Operands.lean ====
section
/-! SUPPORT. What the resolver and the instruction shapes can do, said once: what they keep, and what they come to on plain bytes. -/

namespace Sys2Proof.Machine

theorem zeroPagePointer_kept {z : Byte} {w : Word} {s t : State} (h : zeroPagePointer z s = .next (w, t)) : Kept s t := by
  obtain ⟨⟨lo, u⟩, hu, h⟩ := andThen_eq_next.mp h
  obtain ⟨⟨hi, v⟩, hv, h⟩ := andThen_eq_next.mp h
  injection h with h; injection h with _ h
  exact h ▸ (memRead_kept hu).trans (memRead_kept hv)

theorem resolveIndirect_kept {ptr w : Word} {s t : State} (h : resolveIndirect ptr s = .next (w, t)) : Kept s t := by
  obtain ⟨⟨lo, u⟩, hu, h⟩ := andThen_eq_next.mp h
  obtain ⟨⟨hi, v⟩, hv, h⟩ := andThen_eq_next.mp h
  injection h with h; injection h with _ h
  exact h ▸ (memRead_kept hu).trans (memRead_kept hv)

theorem resolve_kept {e : Ea} {r : Resolved} {s t : State} (h : resolve e s = .next (r, t)) : Kept s t := by
  cases e with
  | indX d =>
    obtain ⟨⟨w, u⟩, hu, h⟩ := andThen_eq_next.mp h
    injection h with h; injection h with _ h
    exact h ▸ zeroPagePointer_kept hu
  | indY d =>
    obtain ⟨⟨w, u⟩, hu, h⟩ := andThen_eq_next.mp h
    injection h with h; injection h with _ h
    exact h ▸ zeroPagePointer_kept hu
  | zp d => injection h with h; injection h with _ h; exact h ▸ Kept.refl s
  | zpX d => injection h with h; injection h with _ h; exact h ▸ Kept.refl s
  | zpY d => injection h with h; injection h with _ h; exact h ▸ Kept.refl s
  | abs w => injection h with h; injection h with _ h; exact h ▸ Kept.refl s
  | absX w => injection h with h; injection h with _ h; exact h ▸ Kept.refl s
  | absY w => injection h with h; injection h with _ h; exact h ▸ Kept.refl s

theorem operand_kept {src : Src} {v : Byte} {c : Bool} {s t : State} (h : operand src s = .next (v, c, t)) : Kept s t := by
  cases src with
  | imm w => injection h with h; injection h with _ h; injection h with _ h; exact h ▸ Kept.refl s
  | mem e =>
    obtain ⟨⟨r, u⟩, hu, h⟩ := andThen_eq_next.mp h
    obtain ⟨⟨w, k⟩, hk, h⟩ := andThen_eq_next.mp h
    injection h with h; injection h with _ h; injection h with _ h
    exact h ▸ (resolve_kept hu).trans (memRead_kept hk)

/-! ## Everything a shape can do -/

/-- A reading instruction: its operand's read, its effect on registers and flags, then the bookkeeping. -/
theorem readShape_next {i : Instr} {src : Src} {f : Byte → State → State} {s t : State} (h : readShape i src f s = .next t) :
    ∃ v c u, operand src s = .next (v, c, u) ∧ t = retire i (pagePenalty i c) (advance i (f v u)) := by
  obtain ⟨⟨v, c, u⟩, hu, h⟩ := andThen_eq_next.mp h
  injection h with h
  exact ⟨v, c, u, hu, h.symm⟩

/-- A store: the resolver's reads, one write at `EA`, then the bookkeeping. -/
theorem storeShape_next {i : Instr} {e : Ea} {v : Byte} {s t : State} (h : storeShape i e v s = .next t) :
    ∃ r u w, resolve e s = .next (r, u) ∧ memWrite r.ea v u = .next w ∧ t = retire i 0 (advance i w) := by
  obtain ⟨⟨r, u⟩, hu, h⟩ := andThen_eq_next.mp h
  obtain ⟨w, hw, h⟩ := andThen_eq_next.mp h
  injection h with h
  exact ⟨r, u, w, hu, hw, h.symm⟩

/-- A read-modify-write: the resolver's reads, one read at `EA`, C, one write at `EA`, `P`, then the bookkeeping (R270). -/
theorem modifyShape_next {i : Instr} {e : Ea} {f : Byte → Byte → Byte × Byte} {s t : State} (h : modifyShape i e f s = .next t) :
    ∃ r u v w k, resolve e s = .next (r, u) ∧ memRead r.ea u = .next (v, w) ∧
      memWrite r.ea (f w.p v).1 { w with p := setC (flagC (f w.p v).2) w.p } = .next k ∧
      t = retire i 0 (advance i { k with p := (f w.p v).2 }) := by
  obtain ⟨⟨r, u⟩, hu, h⟩ := andThen_eq_next.mp h
  obtain ⟨⟨v, w⟩, hw, h⟩ := andThen_eq_next.mp h
  obtain ⟨k, hk, h⟩ := andThen_eq_next.mp h
  injection h with h
  exact ⟨r, u, v, w, k, hu, hw, hk, h.symm⟩

/-- A branch always answers, and changes only PC and the counters (R294). -/
theorem branchShape_next (i : Instr) (cond : Bool) (d : Byte) (s : State) :
    branchShape i cond d s = .next
      { s with
        pc := if cond then branchTarget s.pc d else branchNext s.pc
        es := s.accounted i (i.row.cycles +
          (if cond then (if hi8 (branchNext s.pc) = hi8 (branchTarget s.pc d) then 1 else 2) else 0)) } := by
  cases cond <;> rfl

/-! ## On plain bytes -/

theorem zext16_eq (b : Byte) : zext16 b = BitVec.ofNat 16 b.toNat := by
  apply BitVec.eq_of_toNat_eq; simp [zext16]

theorem joinWord_eq (h l : Byte) : joinWord h l = BitVec.ofNat 16 (h.toNat * 256 + l.toNat) := by
  apply BitVec.eq_of_toNat_eq
  have hl := l.isLt
  have hh := h.isLt
  rw [joinWord, BitVec.toNat_append, Nat.shiftLeft_eq, ← Nat.shiftLeft_eq, ← Nat.shiftLeft_add_eq_or_of_lt hl, Nat.shiftLeft_eq,
    BitVec.toNat_ofNat]
  omega

theorem joinWord_toNat (h l : Byte) : (joinWord h l).toNat = h.toNat * 256 + l.toNat := by
  have hl := l.isLt
  have hh := h.isLt
  rw [joinWord_eq, BitVec.toNat_ofNat]; omega

theorem hi8_toNat (w : Word) : (hi8 w).toNat = w.toNat / 256 := by
  have hw := w.isLt
  simp only [hi8, BitVec.truncate_eq_setWidth, BitVec.toNat_setWidth, BitVec.toNat_ushiftRight, Nat.shiftRight_eq_div_pow]
  omega

theorem lo8_toNat (w : Word) : (lo8 w).toNat = w.toNat % 256 := by
  simp [lo8]

/-- The indexed address and its page-cross flag in ordinary numbers (R169, R170, R173). -/
theorem indexed_eq (b : Word) (x : Byte) :
    indexed b x = ⟨BitVec.ofNat 16 ((b.toNat + x.toNat) % 65536), b.toNat / 256 != (b.toNat + x.toNat) % 65536 / 256⟩ := by
  have hx : (zext16 x).toNat = x.toNat := by rw [zext16_eq, BitVec.toNat_ofNat]; have := x.isLt; omega
  have he : (b + zext16 x).toNat = (b.toNat + x.toNat) % 65536 := by rw [BitVec.toNat_add, hx]
  simp only [indexed, Resolved.mk.injEq]
  constructor
  · apply BitVec.eq_of_toNat_eq; rw [he, BitVec.toNat_ofNat]; omega
  · rw [Bool.eq_iff_iff]
    simp only [bne_iff_ne, ne_eq, ← BitVec.toNat_inj, hi8_toNat, he]

theorem zeroPagePointer_of {d : Byte} {n : Nat} {s : State} (h : s.pointer d.toNat = some n) :
    zeroPagePointer d s = .next (BitVec.ofNat 16 n, s) ∧ n < 65536 := by
  obtain ⟨w, hw, rfl⟩ := Option.map_eq_some_iff.mp h
  obtain ⟨lo, hlo, hw⟩ := Option.bind_eq_some_iff.mp hw
  obtain ⟨hi, hhi, rfl⟩ := Option.map_eq_some_iff.mp hw
  have hd := d.isLt
  have e1 : zext16 d = BitVec.ofNat 16 (d.toNat % 256) := by rw [zext16_eq]; congr 1; omega
  have e2 : zext16 (d + 1#8) = BitVec.ofNat 16 ((d.toNat + 1) % 256) := by rw [zext16_eq]; congr 1
  refine ⟨?_, BitVec.isLt _⟩
  rw [← joinWord_eq, BitVec.ofNat_toNat, BitVec.setWidth_eq]
  simp [zeroPagePointer, e1, e2, memRead_of_peek hlo, memRead_of_peek hhi]

/-- The resolver meets the spec's formulas (R164 to R173) wherever its pointer bytes are plain. -/
theorem resolve_of_effective {e : Ea} {n : Nat} {c : Bool} {s : State} (h : s.effective e = some (n, c)) :
    resolve e s = .next (⟨BitVec.ofNat 16 n, c⟩, s) := by
  cases e with
  | zp d => injection h with h; injection h with h1 h2; subst h1 h2; simp [resolve, zext16_eq]
  | zpX d =>
    injection h with h; injection h with h1 h2; subst h1 h2
    simp [resolve, zext16_eq]
  | zpY d =>
    injection h with h; injection h with h1 h2; subst h1 h2
    simp [resolve, zext16_eq]
  | abs w => injection h with h; injection h with h1 h2; subst h1 h2; simp [resolve]
  | absX w => injection h with h; injection h with h1 h2; subst h1 h2; simp [resolve, indexed_eq]
  | absY w => injection h with h; injection h with h1 h2; subst h1 h2; simp [resolve, indexed_eq]
  | indX d =>
    obtain ⟨w, hw, h⟩ := Option.map_eq_some_iff.mp h
    injection h with h1 h2; subst h1 h2
    have e : s.pointer (d + s.x).toNat = some w := by
      rw [← hw]; unfold State.pointer
      have h1 : (d + s.x).toNat % 256 = (d.toNat + s.x.toNat) % 256 := by rw [BitVec.toNat_add]; omega
      have h2 : ((d + s.x).toNat + 1) % 256 = (d.toNat + s.x.toNat + 1) % 256 := by rw [BitVec.toNat_add]; omega
      rw [h1, h2]
    simp [resolve, (zeroPagePointer_of e).1]
  | indY d =>
    obtain ⟨w, hw, h⟩ := Option.map_eq_some_iff.mp h
    injection h with h1 h2; subst h1 h2
    obtain ⟨hz, hlt⟩ := zeroPagePointer_of hw
    have e : (BitVec.ofNat 16 w).toNat = w := by rw [BitVec.toNat_ofNat]; omega
    simp only [resolve, hz, andThen_next, indexed_eq, e]

/-- `Operand(mode)` on plain bytes (R175). -/
theorem operand_of_value {src : Src} {v : Byte} {c : Bool} {s : State} (h : s.value src = some (v, c)) :
    operand src s = .next (v, c, s) := by
  cases src with
  | imm w => injection h with h; injection h with h1 h2; subst h1 h2; rfl
  | mem e =>
    obtain ⟨⟨n, c'⟩, hn, h⟩ := Option.bind_eq_some_iff.mp h
    obtain ⟨w, hw, h⟩ := Option.map_eq_some_iff.mp h
    injection h with h1 h2; subst h1 h2
    simp [operand, resolve_of_effective hn, memRead_of_peek hw]

end Sys2Proof.Machine
end

