-- ==== Sys2Proof/Laws/Exec.lean ====
section
/-! SUPPORT. What `exec` of each constructor is, in the shared shapes: the equations a proof rewrites with in place of unfolding `exec`
and the meanings. True by definition. -/

namespace Sys2Proof.Machine

section
variable (s : State) (v d : Byte) (w : Word)

@[simp] theorem exec_ldaImm : exec (.ldaImm v) s = readShape (.ldaImm v) (.imm v) loadA s := rfl
@[simp] theorem exec_ldaZp : exec (.ldaZp d) s = readShape (.ldaZp d) (.mem (.zp d)) loadA s := rfl
@[simp] theorem exec_ldaZpX : exec (.ldaZpX d) s = readShape (.ldaZpX d) (.mem (.zpX d)) loadA s := rfl
@[simp] theorem exec_ldaAbs : exec (.ldaAbs w) s = readShape (.ldaAbs w) (.mem (.abs w)) loadA s := rfl
@[simp] theorem exec_ldaAbsX : exec (.ldaAbsX w) s = readShape (.ldaAbsX w) (.mem (.absX w)) loadA s := rfl
@[simp] theorem exec_ldaAbsY : exec (.ldaAbsY w) s = readShape (.ldaAbsY w) (.mem (.absY w)) loadA s := rfl
@[simp] theorem exec_ldaIndX : exec (.ldaIndX d) s = readShape (.ldaIndX d) (.mem (.indX d)) loadA s := rfl
@[simp] theorem exec_ldaIndY : exec (.ldaIndY d) s = readShape (.ldaIndY d) (.mem (.indY d)) loadA s := rfl
@[simp] theorem exec_ldxImm : exec (.ldxImm v) s = readShape (.ldxImm v) (.imm v) loadX s := rfl
@[simp] theorem exec_ldxZp : exec (.ldxZp d) s = readShape (.ldxZp d) (.mem (.zp d)) loadX s := rfl
@[simp] theorem exec_ldxZpY : exec (.ldxZpY d) s = readShape (.ldxZpY d) (.mem (.zpY d)) loadX s := rfl
@[simp] theorem exec_ldxAbs : exec (.ldxAbs w) s = readShape (.ldxAbs w) (.mem (.abs w)) loadX s := rfl
@[simp] theorem exec_ldxAbsY : exec (.ldxAbsY w) s = readShape (.ldxAbsY w) (.mem (.absY w)) loadX s := rfl
@[simp] theorem exec_ldyImm : exec (.ldyImm v) s = readShape (.ldyImm v) (.imm v) loadY s := rfl
@[simp] theorem exec_ldyZp : exec (.ldyZp d) s = readShape (.ldyZp d) (.mem (.zp d)) loadY s := rfl
@[simp] theorem exec_ldyZpX : exec (.ldyZpX d) s = readShape (.ldyZpX d) (.mem (.zpX d)) loadY s := rfl
@[simp] theorem exec_ldyAbs : exec (.ldyAbs w) s = readShape (.ldyAbs w) (.mem (.abs w)) loadY s := rfl
@[simp] theorem exec_ldyAbsX : exec (.ldyAbsX w) s = readShape (.ldyAbsX w) (.mem (.absX w)) loadY s := rfl
@[simp] theorem exec_staZp : exec (.staZp d) s = storeShape (.staZp d) (.zp d) s.a s := rfl
@[simp] theorem exec_staZpX : exec (.staZpX d) s = storeShape (.staZpX d) (.zpX d) s.a s := rfl
@[simp] theorem exec_staAbs : exec (.staAbs w) s = storeShape (.staAbs w) (.abs w) s.a s := rfl
@[simp] theorem exec_staAbsX : exec (.staAbsX w) s = storeShape (.staAbsX w) (.absX w) s.a s := rfl
@[simp] theorem exec_staAbsY : exec (.staAbsY w) s = storeShape (.staAbsY w) (.absY w) s.a s := rfl
@[simp] theorem exec_staIndX : exec (.staIndX d) s = storeShape (.staIndX d) (.indX d) s.a s := rfl
@[simp] theorem exec_staIndY : exec (.staIndY d) s = storeShape (.staIndY d) (.indY d) s.a s := rfl
@[simp] theorem exec_stxZp : exec (.stxZp d) s = storeShape (.stxZp d) (.zp d) s.x s := rfl
@[simp] theorem exec_stxZpY : exec (.stxZpY d) s = storeShape (.stxZpY d) (.zpY d) s.x s := rfl
@[simp] theorem exec_stxAbs : exec (.stxAbs w) s = storeShape (.stxAbs w) (.abs w) s.x s := rfl
@[simp] theorem exec_styZp : exec (.styZp d) s = storeShape (.styZp d) (.zp d) s.y s := rfl
@[simp] theorem exec_styZpX : exec (.styZpX d) s = storeShape (.styZpX d) (.zpX d) s.y s := rfl
@[simp] theorem exec_styAbs : exec (.styAbs w) s = storeShape (.styAbs w) (.abs w) s.y s := rfl
@[simp] theorem exec_tax : exec .tax s = registerShape .tax (fun t => loadX t.a t) s := rfl
@[simp] theorem exec_tay : exec .tay s = registerShape .tay (fun t => loadY t.a t) s := rfl
@[simp] theorem exec_txa : exec .txa s = registerShape .txa (fun t => loadA t.x t) s := rfl
@[simp] theorem exec_tya : exec .tya s = registerShape .tya (fun t => loadA t.y t) s := rfl
@[simp] theorem exec_tsx : exec .tsx s = registerShape .tsx (fun t => loadX t.sp t) s := rfl
@[simp] theorem exec_txs : exec .txs s = registerShape .txs (fun t => { t with sp := t.x }) s := rfl
@[simp] theorem exec_pha : exec .pha s = andThen (push s.a s) (finish .pha 0) := rfl
@[simp] theorem exec_php : exec .php s = andThen (push (brokenCopy s.p) s) (finish .php 0) := rfl
@[simp] theorem exec_pla : exec .pla s = andThen (pull s) fun (v, s1) => finish .pla 0 (loadA v s1) := rfl
@[simp] theorem exec_plp : exec .plp s = andThen (pull s) fun (v, s1) => finish .plp 0 (status (pulledStatus v) s1) := rfl
@[simp] theorem exec_andImm : exec (.andImm v) s = readShape (.andImm v) (.imm v) (accumulate andAlu) s := rfl
@[simp] theorem exec_andZp : exec (.andZp d) s = readShape (.andZp d) (.mem (.zp d)) (accumulate andAlu) s := rfl
@[simp] theorem exec_andZpX : exec (.andZpX d) s = readShape (.andZpX d) (.mem (.zpX d)) (accumulate andAlu) s := rfl
@[simp] theorem exec_andAbs : exec (.andAbs w) s = readShape (.andAbs w) (.mem (.abs w)) (accumulate andAlu) s := rfl
@[simp] theorem exec_andAbsX : exec (.andAbsX w) s = readShape (.andAbsX w) (.mem (.absX w)) (accumulate andAlu) s := rfl
@[simp] theorem exec_andAbsY : exec (.andAbsY w) s = readShape (.andAbsY w) (.mem (.absY w)) (accumulate andAlu) s := rfl
@[simp] theorem exec_andIndX : exec (.andIndX d) s = readShape (.andIndX d) (.mem (.indX d)) (accumulate andAlu) s := rfl
@[simp] theorem exec_andIndY : exec (.andIndY d) s = readShape (.andIndY d) (.mem (.indY d)) (accumulate andAlu) s := rfl
@[simp] theorem exec_oraImm : exec (.oraImm v) s = readShape (.oraImm v) (.imm v) (accumulate oraAlu) s := rfl
@[simp] theorem exec_oraZp : exec (.oraZp d) s = readShape (.oraZp d) (.mem (.zp d)) (accumulate oraAlu) s := rfl
@[simp] theorem exec_oraZpX : exec (.oraZpX d) s = readShape (.oraZpX d) (.mem (.zpX d)) (accumulate oraAlu) s := rfl
@[simp] theorem exec_oraAbs : exec (.oraAbs w) s = readShape (.oraAbs w) (.mem (.abs w)) (accumulate oraAlu) s := rfl
@[simp] theorem exec_oraAbsX : exec (.oraAbsX w) s = readShape (.oraAbsX w) (.mem (.absX w)) (accumulate oraAlu) s := rfl
@[simp] theorem exec_oraAbsY : exec (.oraAbsY w) s = readShape (.oraAbsY w) (.mem (.absY w)) (accumulate oraAlu) s := rfl
@[simp] theorem exec_oraIndX : exec (.oraIndX d) s = readShape (.oraIndX d) (.mem (.indX d)) (accumulate oraAlu) s := rfl
@[simp] theorem exec_oraIndY : exec (.oraIndY d) s = readShape (.oraIndY d) (.mem (.indY d)) (accumulate oraAlu) s := rfl
@[simp] theorem exec_eorImm : exec (.eorImm v) s = readShape (.eorImm v) (.imm v) (accumulate eorAlu) s := rfl
@[simp] theorem exec_eorZp : exec (.eorZp d) s = readShape (.eorZp d) (.mem (.zp d)) (accumulate eorAlu) s := rfl
@[simp] theorem exec_eorZpX : exec (.eorZpX d) s = readShape (.eorZpX d) (.mem (.zpX d)) (accumulate eorAlu) s := rfl
@[simp] theorem exec_eorAbs : exec (.eorAbs w) s = readShape (.eorAbs w) (.mem (.abs w)) (accumulate eorAlu) s := rfl
@[simp] theorem exec_eorAbsX : exec (.eorAbsX w) s = readShape (.eorAbsX w) (.mem (.absX w)) (accumulate eorAlu) s := rfl
@[simp] theorem exec_eorAbsY : exec (.eorAbsY w) s = readShape (.eorAbsY w) (.mem (.absY w)) (accumulate eorAlu) s := rfl
@[simp] theorem exec_eorIndX : exec (.eorIndX d) s = readShape (.eorIndX d) (.mem (.indX d)) (accumulate eorAlu) s := rfl
@[simp] theorem exec_eorIndY : exec (.eorIndY d) s = readShape (.eorIndY d) (.mem (.indY d)) (accumulate eorAlu) s := rfl
@[simp] theorem exec_bitZp : exec (.bitZp d) s =
    readShape (.bitZp d) (.mem (.zp d)) (fun m t => status (fun p => bitAlu p t.a m) t) s := rfl
@[simp] theorem exec_bitAbs : exec (.bitAbs w) s =
    readShape (.bitAbs w) (.mem (.abs w)) (fun m t => status (fun p => bitAlu p t.a m) t) s := rfl
@[simp] theorem exec_adcImm : exec (.adcImm v) s = readShape (.adcImm v) (.imm v) (accumulate adcAlu) s := rfl
@[simp] theorem exec_adcZp : exec (.adcZp d) s = readShape (.adcZp d) (.mem (.zp d)) (accumulate adcAlu) s := rfl
@[simp] theorem exec_adcZpX : exec (.adcZpX d) s = readShape (.adcZpX d) (.mem (.zpX d)) (accumulate adcAlu) s := rfl
@[simp] theorem exec_adcAbs : exec (.adcAbs w) s = readShape (.adcAbs w) (.mem (.abs w)) (accumulate adcAlu) s := rfl
@[simp] theorem exec_adcAbsX : exec (.adcAbsX w) s = readShape (.adcAbsX w) (.mem (.absX w)) (accumulate adcAlu) s := rfl
@[simp] theorem exec_adcAbsY : exec (.adcAbsY w) s = readShape (.adcAbsY w) (.mem (.absY w)) (accumulate adcAlu) s := rfl
@[simp] theorem exec_adcIndX : exec (.adcIndX d) s = readShape (.adcIndX d) (.mem (.indX d)) (accumulate adcAlu) s := rfl
@[simp] theorem exec_adcIndY : exec (.adcIndY d) s = readShape (.adcIndY d) (.mem (.indY d)) (accumulate adcAlu) s := rfl
@[simp] theorem exec_sbcImm : exec (.sbcImm v) s = readShape (.sbcImm v) (.imm v) (accumulate sbcAlu) s := rfl
@[simp] theorem exec_sbcZp : exec (.sbcZp d) s = readShape (.sbcZp d) (.mem (.zp d)) (accumulate sbcAlu) s := rfl
@[simp] theorem exec_sbcZpX : exec (.sbcZpX d) s = readShape (.sbcZpX d) (.mem (.zpX d)) (accumulate sbcAlu) s := rfl
@[simp] theorem exec_sbcAbs : exec (.sbcAbs w) s = readShape (.sbcAbs w) (.mem (.abs w)) (accumulate sbcAlu) s := rfl
@[simp] theorem exec_sbcAbsX : exec (.sbcAbsX w) s = readShape (.sbcAbsX w) (.mem (.absX w)) (accumulate sbcAlu) s := rfl
@[simp] theorem exec_sbcAbsY : exec (.sbcAbsY w) s = readShape (.sbcAbsY w) (.mem (.absY w)) (accumulate sbcAlu) s := rfl
@[simp] theorem exec_sbcIndX : exec (.sbcIndX d) s = readShape (.sbcIndX d) (.mem (.indX d)) (accumulate sbcAlu) s := rfl
@[simp] theorem exec_sbcIndY : exec (.sbcIndY d) s = readShape (.sbcIndY d) (.mem (.indY d)) (accumulate sbcAlu) s := rfl
@[simp] theorem exec_cmpImm : exec (.cmpImm v) s =
    readShape (.cmpImm v) (.imm v) (fun m t => status (fun p => compareAlu p t.a m) t) s := rfl
@[simp] theorem exec_cmpZp : exec (.cmpZp d) s =
    readShape (.cmpZp d) (.mem (.zp d)) (fun m t => status (fun p => compareAlu p t.a m) t) s := rfl
@[simp] theorem exec_cmpZpX : exec (.cmpZpX d) s =
    readShape (.cmpZpX d) (.mem (.zpX d)) (fun m t => status (fun p => compareAlu p t.a m) t) s := rfl
@[simp] theorem exec_cmpAbs : exec (.cmpAbs w) s =
    readShape (.cmpAbs w) (.mem (.abs w)) (fun m t => status (fun p => compareAlu p t.a m) t) s := rfl
@[simp] theorem exec_cmpAbsX : exec (.cmpAbsX w) s =
    readShape (.cmpAbsX w) (.mem (.absX w)) (fun m t => status (fun p => compareAlu p t.a m) t) s := rfl
@[simp] theorem exec_cmpAbsY : exec (.cmpAbsY w) s =
    readShape (.cmpAbsY w) (.mem (.absY w)) (fun m t => status (fun p => compareAlu p t.a m) t) s := rfl
@[simp] theorem exec_cmpIndX : exec (.cmpIndX d) s =
    readShape (.cmpIndX d) (.mem (.indX d)) (fun m t => status (fun p => compareAlu p t.a m) t) s := rfl
@[simp] theorem exec_cmpIndY : exec (.cmpIndY d) s =
    readShape (.cmpIndY d) (.mem (.indY d)) (fun m t => status (fun p => compareAlu p t.a m) t) s := rfl
@[simp] theorem exec_cpxImm : exec (.cpxImm v) s =
    readShape (.cpxImm v) (.imm v) (fun m t => status (fun p => compareAlu p t.x m) t) s := rfl
@[simp] theorem exec_cpxZp : exec (.cpxZp d) s =
    readShape (.cpxZp d) (.mem (.zp d)) (fun m t => status (fun p => compareAlu p t.x m) t) s := rfl
@[simp] theorem exec_cpxAbs : exec (.cpxAbs w) s =
    readShape (.cpxAbs w) (.mem (.abs w)) (fun m t => status (fun p => compareAlu p t.x m) t) s := rfl
@[simp] theorem exec_cpyImm : exec (.cpyImm v) s =
    readShape (.cpyImm v) (.imm v) (fun m t => status (fun p => compareAlu p t.y m) t) s := rfl
@[simp] theorem exec_cpyZp : exec (.cpyZp d) s =
    readShape (.cpyZp d) (.mem (.zp d)) (fun m t => status (fun p => compareAlu p t.y m) t) s := rfl
@[simp] theorem exec_cpyAbs : exec (.cpyAbs w) s =
    readShape (.cpyAbs w) (.mem (.abs w)) (fun m t => status (fun p => compareAlu p t.y m) t) s := rfl
@[simp] theorem exec_incZp : exec (.incZp d) s = modifyShape (.incZp d) (.zp d) incAlu s := rfl
@[simp] theorem exec_incZpX : exec (.incZpX d) s = modifyShape (.incZpX d) (.zpX d) incAlu s := rfl
@[simp] theorem exec_incAbs : exec (.incAbs w) s = modifyShape (.incAbs w) (.abs w) incAlu s := rfl
@[simp] theorem exec_incAbsX : exec (.incAbsX w) s = modifyShape (.incAbsX w) (.absX w) incAlu s := rfl
@[simp] theorem exec_decZp : exec (.decZp d) s = modifyShape (.decZp d) (.zp d) decAlu s := rfl
@[simp] theorem exec_decZpX : exec (.decZpX d) s = modifyShape (.decZpX d) (.zpX d) decAlu s := rfl
@[simp] theorem exec_decAbs : exec (.decAbs w) s = modifyShape (.decAbs w) (.abs w) decAlu s := rfl
@[simp] theorem exec_decAbsX : exec (.decAbsX w) s = modifyShape (.decAbsX w) (.absX w) decAlu s := rfl
@[simp] theorem exec_inx : exec .inx s = registerShape .inx (modifyX incAlu) s := rfl
@[simp] theorem exec_iny : exec .iny s = registerShape .iny (modifyY incAlu) s := rfl
@[simp] theorem exec_dex : exec .dex s = registerShape .dex (modifyX decAlu) s := rfl
@[simp] theorem exec_dey : exec .dey s = registerShape .dey (modifyY decAlu) s := rfl
@[simp] theorem exec_aslAcc : exec .aslAcc s = registerShape .aslAcc (modifyA aslAlu) s := rfl
@[simp] theorem exec_aslZp : exec (.aslZp d) s = modifyShape (.aslZp d) (.zp d) aslAlu s := rfl
@[simp] theorem exec_aslZpX : exec (.aslZpX d) s = modifyShape (.aslZpX d) (.zpX d) aslAlu s := rfl
@[simp] theorem exec_aslAbs : exec (.aslAbs w) s = modifyShape (.aslAbs w) (.abs w) aslAlu s := rfl
@[simp] theorem exec_aslAbsX : exec (.aslAbsX w) s = modifyShape (.aslAbsX w) (.absX w) aslAlu s := rfl
@[simp] theorem exec_lsrAcc : exec .lsrAcc s = registerShape .lsrAcc (modifyA lsrAlu) s := rfl
@[simp] theorem exec_lsrZp : exec (.lsrZp d) s = modifyShape (.lsrZp d) (.zp d) lsrAlu s := rfl
@[simp] theorem exec_lsrZpX : exec (.lsrZpX d) s = modifyShape (.lsrZpX d) (.zpX d) lsrAlu s := rfl
@[simp] theorem exec_lsrAbs : exec (.lsrAbs w) s = modifyShape (.lsrAbs w) (.abs w) lsrAlu s := rfl
@[simp] theorem exec_lsrAbsX : exec (.lsrAbsX w) s = modifyShape (.lsrAbsX w) (.absX w) lsrAlu s := rfl
@[simp] theorem exec_rolAcc : exec .rolAcc s = registerShape .rolAcc (modifyA rolAlu) s := rfl
@[simp] theorem exec_rolZp : exec (.rolZp d) s = modifyShape (.rolZp d) (.zp d) rolAlu s := rfl
@[simp] theorem exec_rolZpX : exec (.rolZpX d) s = modifyShape (.rolZpX d) (.zpX d) rolAlu s := rfl
@[simp] theorem exec_rolAbs : exec (.rolAbs w) s = modifyShape (.rolAbs w) (.abs w) rolAlu s := rfl
@[simp] theorem exec_rolAbsX : exec (.rolAbsX w) s = modifyShape (.rolAbsX w) (.absX w) rolAlu s := rfl
@[simp] theorem exec_rorAcc : exec .rorAcc s = registerShape .rorAcc (modifyA rorAlu) s := rfl
@[simp] theorem exec_rorZp : exec (.rorZp d) s = modifyShape (.rorZp d) (.zp d) rorAlu s := rfl
@[simp] theorem exec_rorZpX : exec (.rorZpX d) s = modifyShape (.rorZpX d) (.zpX d) rorAlu s := rfl
@[simp] theorem exec_rorAbs : exec (.rorAbs w) s = modifyShape (.rorAbs w) (.abs w) rorAlu s := rfl
@[simp] theorem exec_rorAbsX : exec (.rorAbsX w) s = modifyShape (.rorAbsX w) (.absX w) rorAlu s := rfl
@[simp] theorem exec_jmpAbs : exec (.jmpAbs w) s = .next (retire (.jmpAbs w) 0 { s with pc := w }) := rfl
@[simp] theorem exec_jmpInd : exec (.jmpInd w) s =
    andThen (resolveIndirect w s) fun (t, s1) => .next (retire (.jmpInd w) 0 { s1 with pc := t }) := rfl
@[simp] theorem exec_jsr : exec (.jsr w) s =
    andThen (pushWord (s.pc + 2#16) s) fun s1 => .next (retire (.jsr w) 0 { s1 with pc := w }) := rfl
@[simp] theorem exec_rts : exec .rts s = andThen (pullWord s) fun (w, s1) => .next (retire .rts 0 { s1 with pc := w + 1#16 }) := rfl
@[simp] theorem exec_bcc : exec (.bcc d) s = branchShape (.bcc d) (!flagC s.p) d s := rfl
@[simp] theorem exec_bcs : exec (.bcs d) s = branchShape (.bcs d) (flagC s.p) d s := rfl
@[simp] theorem exec_beq : exec (.beq d) s = branchShape (.beq d) (flagZ s.p) d s := rfl
@[simp] theorem exec_bne : exec (.bne d) s = branchShape (.bne d) (!flagZ s.p) d s := rfl
@[simp] theorem exec_bmi : exec (.bmi d) s = branchShape (.bmi d) (flagN s.p) d s := rfl
@[simp] theorem exec_bpl : exec (.bpl d) s = branchShape (.bpl d) (!flagN s.p) d s := rfl
@[simp] theorem exec_bvc : exec (.bvc d) s = branchShape (.bvc d) (!flagV s.p) d s := rfl
@[simp] theorem exec_bvs : exec (.bvs d) s = branchShape (.bvs d) (flagV s.p) d s := rfl
@[simp] theorem exec_clc : exec .clc s = registerShape .clc (status (setC false)) s := rfl
@[simp] theorem exec_sec : exec .sec s = registerShape .sec (status (setC true)) s := rfl
@[simp] theorem exec_cli : exec .cli s = registerShape .cli (status (setI false)) s := rfl
@[simp] theorem exec_sei : exec .sei s = registerShape .sei (status (setI true)) s := rfl
@[simp] theorem exec_cld : exec .cld s = registerShape .cld (status (setD false)) s := rfl
@[simp] theorem exec_sed : exec .sed s = registerShape .sed (status (setD true)) s := rfl
@[simp] theorem exec_clv : exec .clv s = registerShape .clv (status (setV false)) s := rfl
@[simp] theorem exec_nop : exec .nop s = registerShape .nop (fun t => t) s := rfl
@[simp] theorem exec_brk : exec .brk s =
    andThen (takeTrap (s.pc + 2#16) (brokenCopy s.p) Config.irqVector s) fun s1 => .next (retire .brk 0 s1) := rfl
@[simp] theorem exec_rti : exec .rti s = andThen (returnFromTrap s) fun s1 => .next (retire .rti 0 s1) := rfl
end

end Sys2Proof.Machine
end

