-- ==== Sys2Proof/Laws/Flags.lean ====
section
/-! SUPPORT. The status register bit by bit: every byte is the byte of its eight flags, and each flag operation changes its own bit. -/

namespace Sys2Proof.Machine

/-- A byte is the status byte of its flags. -/
theorem statusByte_flags (p : Byte) :
    statusByte (flagN p) (flagV p) (flagU p) (flagB p) (flagD p) (flagI p) (flagZ p) (flagC p) = p := by
  revert p; decide

section
variable (n v u b d i z c x : Bool)

@[simp] theorem flagN_statusByte : flagN (statusByte n v u b d i z c) = n := by
  cases n <;> cases v <;> cases u <;> cases b <;> cases d <;> cases i <;> cases z <;> cases c <;> rfl
@[simp] theorem flagV_statusByte : flagV (statusByte n v u b d i z c) = v := by
  cases n <;> cases v <;> cases u <;> cases b <;> cases d <;> cases i <;> cases z <;> cases c <;> rfl
@[simp] theorem flagU_statusByte : flagU (statusByte n v u b d i z c) = u := by
  cases n <;> cases v <;> cases u <;> cases b <;> cases d <;> cases i <;> cases z <;> cases c <;> rfl
@[simp] theorem flagB_statusByte : flagB (statusByte n v u b d i z c) = b := by
  cases n <;> cases v <;> cases u <;> cases b <;> cases d <;> cases i <;> cases z <;> cases c <;> rfl
@[simp] theorem flagD_statusByte : flagD (statusByte n v u b d i z c) = d := by
  cases n <;> cases v <;> cases u <;> cases b <;> cases d <;> cases i <;> cases z <;> cases c <;> rfl
@[simp] theorem flagI_statusByte : flagI (statusByte n v u b d i z c) = i := by
  cases n <;> cases v <;> cases u <;> cases b <;> cases d <;> cases i <;> cases z <;> cases c <;> rfl
@[simp] theorem flagZ_statusByte : flagZ (statusByte n v u b d i z c) = z := by
  cases n <;> cases v <;> cases u <;> cases b <;> cases d <;> cases i <;> cases z <;> cases c <;> rfl
@[simp] theorem flagC_statusByte : flagC (statusByte n v u b d i z c) = c := by
  cases n <;> cases v <;> cases u <;> cases b <;> cases d <;> cases i <;> cases z <;> cases c <;> rfl

@[simp] theorem setN_statusByte : setN x (statusByte n v u b d i z c) = statusByte x v u b d i z c := by
  cases x <;> cases n <;> cases v <;> cases u <;> cases b <;> cases d <;> cases i <;> cases z <;> cases c <;> rfl
@[simp] theorem setV_statusByte : setV x (statusByte n v u b d i z c) = statusByte n x u b d i z c := by
  cases x <;> cases n <;> cases v <;> cases u <;> cases b <;> cases d <;> cases i <;> cases z <;> cases c <;> rfl
@[simp] theorem setD_statusByte : setD x (statusByte n v u b d i z c) = statusByte n v u b x i z c := by
  cases x <;> cases n <;> cases v <;> cases u <;> cases b <;> cases d <;> cases i <;> cases z <;> cases c <;> rfl
@[simp] theorem setI_statusByte : setI x (statusByte n v u b d i z c) = statusByte n v u b d x z c := by
  cases x <;> cases n <;> cases v <;> cases u <;> cases b <;> cases d <;> cases i <;> cases z <;> cases c <;> rfl
@[simp] theorem setZ_statusByte : setZ x (statusByte n v u b d i z c) = statusByte n v u b d i x c := by
  cases x <;> cases n <;> cases v <;> cases u <;> cases b <;> cases d <;> cases i <;> cases z <;> cases c <;> rfl
@[simp] theorem setC_statusByte : setC x (statusByte n v u b d i z c) = statusByte n v u b d i z x := by
  cases x <;> cases n <;> cases v <;> cases u <;> cases b <;> cases d <;> cases i <;> cases z <;> cases c <;> rfl
end

theorem zero_test (r : Byte) : (r == 0x00#8) = decide (r.toNat = 0) := by
  revert r; decide

theorem sign_test (r : Byte) : r.msb = decide (128 ≤ r.toNat) := by
  revert r; decide

/-- `SetNZ` in bits (00_scope.md R8). -/
theorem setNZ_eq (v p : Byte) : setNZ v p = withNZ p v := by
  conv_lhs => rw [← statusByte_flags p]
  simp [setNZ, withNZ, withNZCV, zero_test, sign_test]

/-- `SetNZ` after a new carry, in bits. -/
theorem setNZ_setC_eq (v p : Byte) (c : Bool) : setNZ v (setC c p) = withNZC p v c := by
  conv_lhs => rw [← statusByte_flags p]
  simp [setNZ, withNZC, withNZCV, zero_test, sign_test]

/-- `SetNZ` after a new carry and overflow, in bits. -/
theorem setNZ_setV_setC_eq (v p : Byte) (o c : Bool) :
    setNZ v (setV o (setC c p)) = withNZCV p (decide (128 ≤ v.toNat)) (decide (v.toNat = 0)) c o := by
  conv_lhs => rw [← statusByte_flags p]
  simp [setNZ, withNZCV, zero_test, sign_test]

/-- The copy BRK and PHP push, in bits (R32). -/
theorem brokenCopy_eq (p : Byte) :
    brokenCopy p = statusByte (flagN p) (flagV p) true true (flagD p) (flagI p) (flagZ p) (flagC p) := by
  revert p; decide

/-- The copy an interrupt pushes, in bits (R32). -/
theorem interruptCopy_eq (p : Byte) :
    interruptCopy p = statusByte (flagN p) (flagV p) true false (flagD p) (flagI p) (flagZ p) (flagC p) := by
  revert p; decide

theorem and_or_status (v p : Byte) : pulledStatus v p = (v &&& 0xCF#8) ||| (p &&& 0x30#8) := rfl

/-- What PLP and RTI load, in bits (R30). -/
theorem pulledStatus_eq (v p : Byte) :
    pulledStatus v p = statusByte (flagN v) (flagV v) (flagU p) (flagB p) (flagD v) (flagI v) (flagZ v) (flagC v) := by
  rw [← statusByte_flags (pulledStatus v p)]
  have e : ∀ k, (pulledStatus v p).getLsbD k =
      ((v.getLsbD k && (0xCF#8).getLsbD k) || (p.getLsbD k && (0x30#8).getLsbD k)) := by
    intro k; simp [pulledStatus]
  simp only [flagN, flagV, flagU, flagB, flagD, flagI, flagZ, flagC, e]
  simp

end Sys2Proof.Machine
end

