-- ==== Sys2Proof/Laws/PerInstr.lean ====
section
/-! SUPPORT. One family of facts about every instruction as syntax: it is well formed, its bytes are as many as its mode says, and its
first byte announces that length (spec/30_encoding.md R111, R112, R114). -/

/-- What the family says of one instruction. -/
def Sys2Proof.Laws.Encoding.Statement (i : Sys2Proof.Instr) : Prop :=
  i.wellFormed = true ∧ (Sys2Proof.encode i).length = i.length ∧ Sys2Proof.opcodeLength i.row.opcode = some i.length

namespace Sys2Proof.Laws.Encoding

theorem ldaImm (v : Byte) : Statement (.ldaImm v) :=
  ⟨rfl, rfl, (by decide : opcodeLength 0xA9#8 = some 2)⟩
theorem ldaZp (d : Byte) : Statement (.ldaZp d) :=
  ⟨rfl, rfl, (by decide : opcodeLength 0xA5#8 = some 2)⟩
theorem ldaZpX (d : Byte) : Statement (.ldaZpX d) :=
  ⟨rfl, rfl, (by decide : opcodeLength 0xB5#8 = some 2)⟩
theorem ldaAbs (w : Word) : Statement (.ldaAbs w) :=
  ⟨rfl, rfl, (by decide : opcodeLength 0xAD#8 = some 3)⟩
theorem ldaAbsX (w : Word) : Statement (.ldaAbsX w) :=
  ⟨rfl, rfl, (by decide : opcodeLength 0xBD#8 = some 3)⟩
theorem ldaAbsY (w : Word) : Statement (.ldaAbsY w) :=
  ⟨rfl, rfl, (by decide : opcodeLength 0xB9#8 = some 3)⟩
theorem ldaIndX (d : Byte) : Statement (.ldaIndX d) :=
  ⟨rfl, rfl, (by decide : opcodeLength 0xA1#8 = some 2)⟩
theorem ldaIndY (d : Byte) : Statement (.ldaIndY d) :=
  ⟨rfl, rfl, (by decide : opcodeLength 0xB1#8 = some 2)⟩
theorem ldxImm (v : Byte) : Statement (.ldxImm v) :=
  ⟨rfl, rfl, (by decide : opcodeLength 0xA2#8 = some 2)⟩
theorem ldxZp (d : Byte) : Statement (.ldxZp d) :=
  ⟨rfl, rfl, (by decide : opcodeLength 0xA6#8 = some 2)⟩
theorem ldxZpY (d : Byte) : Statement (.ldxZpY d) :=
  ⟨rfl, rfl, (by decide : opcodeLength 0xB6#8 = some 2)⟩
theorem ldxAbs (w : Word) : Statement (.ldxAbs w) :=
  ⟨rfl, rfl, (by decide : opcodeLength 0xAE#8 = some 3)⟩
theorem ldxAbsY (w : Word) : Statement (.ldxAbsY w) :=
  ⟨rfl, rfl, (by decide : opcodeLength 0xBE#8 = some 3)⟩
theorem ldyImm (v : Byte) : Statement (.ldyImm v) :=
  ⟨rfl, rfl, (by decide : opcodeLength 0xA0#8 = some 2)⟩
theorem ldyZp (d : Byte) : Statement (.ldyZp d) :=
  ⟨rfl, rfl, (by decide : opcodeLength 0xA4#8 = some 2)⟩
theorem ldyZpX (d : Byte) : Statement (.ldyZpX d) :=
  ⟨rfl, rfl, (by decide : opcodeLength 0xB4#8 = some 2)⟩
theorem ldyAbs (w : Word) : Statement (.ldyAbs w) :=
  ⟨rfl, rfl, (by decide : opcodeLength 0xAC#8 = some 3)⟩
theorem ldyAbsX (w : Word) : Statement (.ldyAbsX w) :=
  ⟨rfl, rfl, (by decide : opcodeLength 0xBC#8 = some 3)⟩
theorem staZp (d : Byte) : Statement (.staZp d) :=
  ⟨rfl, rfl, (by decide : opcodeLength 0x85#8 = some 2)⟩
theorem staZpX (d : Byte) : Statement (.staZpX d) :=
  ⟨rfl, rfl, (by decide : opcodeLength 0x95#8 = some 2)⟩
theorem staAbs (w : Word) : Statement (.staAbs w) :=
  ⟨rfl, rfl, (by decide : opcodeLength 0x8D#8 = some 3)⟩
theorem staAbsX (w : Word) : Statement (.staAbsX w) :=
  ⟨rfl, rfl, (by decide : opcodeLength 0x9D#8 = some 3)⟩
theorem staAbsY (w : Word) : Statement (.staAbsY w) :=
  ⟨rfl, rfl, (by decide : opcodeLength 0x99#8 = some 3)⟩
theorem staIndX (d : Byte) : Statement (.staIndX d) :=
  ⟨rfl, rfl, (by decide : opcodeLength 0x81#8 = some 2)⟩
theorem staIndY (d : Byte) : Statement (.staIndY d) :=
  ⟨rfl, rfl, (by decide : opcodeLength 0x91#8 = some 2)⟩
theorem stxZp (d : Byte) : Statement (.stxZp d) :=
  ⟨rfl, rfl, (by decide : opcodeLength 0x86#8 = some 2)⟩
theorem stxZpY (d : Byte) : Statement (.stxZpY d) :=
  ⟨rfl, rfl, (by decide : opcodeLength 0x96#8 = some 2)⟩
theorem stxAbs (w : Word) : Statement (.stxAbs w) :=
  ⟨rfl, rfl, (by decide : opcodeLength 0x8E#8 = some 3)⟩
theorem styZp (d : Byte) : Statement (.styZp d) :=
  ⟨rfl, rfl, (by decide : opcodeLength 0x84#8 = some 2)⟩
theorem styZpX (d : Byte) : Statement (.styZpX d) :=
  ⟨rfl, rfl, (by decide : opcodeLength 0x94#8 = some 2)⟩
theorem styAbs (w : Word) : Statement (.styAbs w) :=
  ⟨rfl, rfl, (by decide : opcodeLength 0x8C#8 = some 3)⟩
theorem tax : Statement .tax :=
  ⟨rfl, rfl, (by decide : opcodeLength 0xAA#8 = some 1)⟩
theorem tay : Statement .tay :=
  ⟨rfl, rfl, (by decide : opcodeLength 0xA8#8 = some 1)⟩
theorem txa : Statement .txa :=
  ⟨rfl, rfl, (by decide : opcodeLength 0x8A#8 = some 1)⟩
theorem tya : Statement .tya :=
  ⟨rfl, rfl, (by decide : opcodeLength 0x98#8 = some 1)⟩
theorem tsx : Statement .tsx :=
  ⟨rfl, rfl, (by decide : opcodeLength 0xBA#8 = some 1)⟩
theorem txs : Statement .txs :=
  ⟨rfl, rfl, (by decide : opcodeLength 0x9A#8 = some 1)⟩
theorem pha : Statement .pha :=
  ⟨rfl, rfl, (by decide : opcodeLength 0x48#8 = some 1)⟩
theorem php : Statement .php :=
  ⟨rfl, rfl, (by decide : opcodeLength 0x08#8 = some 1)⟩
theorem pla : Statement .pla :=
  ⟨rfl, rfl, (by decide : opcodeLength 0x68#8 = some 1)⟩
theorem plp : Statement .plp :=
  ⟨rfl, rfl, (by decide : opcodeLength 0x28#8 = some 1)⟩
theorem andImm (v : Byte) : Statement (.andImm v) :=
  ⟨rfl, rfl, (by decide : opcodeLength 0x29#8 = some 2)⟩
theorem andZp (d : Byte) : Statement (.andZp d) :=
  ⟨rfl, rfl, (by decide : opcodeLength 0x25#8 = some 2)⟩
theorem andZpX (d : Byte) : Statement (.andZpX d) :=
  ⟨rfl, rfl, (by decide : opcodeLength 0x35#8 = some 2)⟩
theorem andAbs (w : Word) : Statement (.andAbs w) :=
  ⟨rfl, rfl, (by decide : opcodeLength 0x2D#8 = some 3)⟩
theorem andAbsX (w : Word) : Statement (.andAbsX w) :=
  ⟨rfl, rfl, (by decide : opcodeLength 0x3D#8 = some 3)⟩
theorem andAbsY (w : Word) : Statement (.andAbsY w) :=
  ⟨rfl, rfl, (by decide : opcodeLength 0x39#8 = some 3)⟩
theorem andIndX (d : Byte) : Statement (.andIndX d) :=
  ⟨rfl, rfl, (by decide : opcodeLength 0x21#8 = some 2)⟩
theorem andIndY (d : Byte) : Statement (.andIndY d) :=
  ⟨rfl, rfl, (by decide : opcodeLength 0x31#8 = some 2)⟩
theorem oraImm (v : Byte) : Statement (.oraImm v) :=
  ⟨rfl, rfl, (by decide : opcodeLength 0x09#8 = some 2)⟩
theorem oraZp (d : Byte) : Statement (.oraZp d) :=
  ⟨rfl, rfl, (by decide : opcodeLength 0x05#8 = some 2)⟩
theorem oraZpX (d : Byte) : Statement (.oraZpX d) :=
  ⟨rfl, rfl, (by decide : opcodeLength 0x15#8 = some 2)⟩
theorem oraAbs (w : Word) : Statement (.oraAbs w) :=
  ⟨rfl, rfl, (by decide : opcodeLength 0x0D#8 = some 3)⟩
theorem oraAbsX (w : Word) : Statement (.oraAbsX w) :=
  ⟨rfl, rfl, (by decide : opcodeLength 0x1D#8 = some 3)⟩
theorem oraAbsY (w : Word) : Statement (.oraAbsY w) :=
  ⟨rfl, rfl, (by decide : opcodeLength 0x19#8 = some 3)⟩
theorem oraIndX (d : Byte) : Statement (.oraIndX d) :=
  ⟨rfl, rfl, (by decide : opcodeLength 0x01#8 = some 2)⟩
theorem oraIndY (d : Byte) : Statement (.oraIndY d) :=
  ⟨rfl, rfl, (by decide : opcodeLength 0x11#8 = some 2)⟩
theorem eorImm (v : Byte) : Statement (.eorImm v) :=
  ⟨rfl, rfl, (by decide : opcodeLength 0x49#8 = some 2)⟩
theorem eorZp (d : Byte) : Statement (.eorZp d) :=
  ⟨rfl, rfl, (by decide : opcodeLength 0x45#8 = some 2)⟩
theorem eorZpX (d : Byte) : Statement (.eorZpX d) :=
  ⟨rfl, rfl, (by decide : opcodeLength 0x55#8 = some 2)⟩
theorem eorAbs (w : Word) : Statement (.eorAbs w) :=
  ⟨rfl, rfl, (by decide : opcodeLength 0x4D#8 = some 3)⟩
theorem eorAbsX (w : Word) : Statement (.eorAbsX w) :=
  ⟨rfl, rfl, (by decide : opcodeLength 0x5D#8 = some 3)⟩
theorem eorAbsY (w : Word) : Statement (.eorAbsY w) :=
  ⟨rfl, rfl, (by decide : opcodeLength 0x59#8 = some 3)⟩
theorem eorIndX (d : Byte) : Statement (.eorIndX d) :=
  ⟨rfl, rfl, (by decide : opcodeLength 0x41#8 = some 2)⟩
theorem eorIndY (d : Byte) : Statement (.eorIndY d) :=
  ⟨rfl, rfl, (by decide : opcodeLength 0x51#8 = some 2)⟩
theorem bitZp (d : Byte) : Statement (.bitZp d) :=
  ⟨rfl, rfl, (by decide : opcodeLength 0x24#8 = some 2)⟩
theorem bitAbs (w : Word) : Statement (.bitAbs w) :=
  ⟨rfl, rfl, (by decide : opcodeLength 0x2C#8 = some 3)⟩
theorem adcImm (v : Byte) : Statement (.adcImm v) :=
  ⟨rfl, rfl, (by decide : opcodeLength 0x69#8 = some 2)⟩
theorem adcZp (d : Byte) : Statement (.adcZp d) :=
  ⟨rfl, rfl, (by decide : opcodeLength 0x65#8 = some 2)⟩
theorem adcZpX (d : Byte) : Statement (.adcZpX d) :=
  ⟨rfl, rfl, (by decide : opcodeLength 0x75#8 = some 2)⟩
theorem adcAbs (w : Word) : Statement (.adcAbs w) :=
  ⟨rfl, rfl, (by decide : opcodeLength 0x6D#8 = some 3)⟩
theorem adcAbsX (w : Word) : Statement (.adcAbsX w) :=
  ⟨rfl, rfl, (by decide : opcodeLength 0x7D#8 = some 3)⟩
theorem adcAbsY (w : Word) : Statement (.adcAbsY w) :=
  ⟨rfl, rfl, (by decide : opcodeLength 0x79#8 = some 3)⟩
theorem adcIndX (d : Byte) : Statement (.adcIndX d) :=
  ⟨rfl, rfl, (by decide : opcodeLength 0x61#8 = some 2)⟩
theorem adcIndY (d : Byte) : Statement (.adcIndY d) :=
  ⟨rfl, rfl, (by decide : opcodeLength 0x71#8 = some 2)⟩
theorem sbcImm (v : Byte) : Statement (.sbcImm v) :=
  ⟨rfl, rfl, (by decide : opcodeLength 0xE9#8 = some 2)⟩
theorem sbcZp (d : Byte) : Statement (.sbcZp d) :=
  ⟨rfl, rfl, (by decide : opcodeLength 0xE5#8 = some 2)⟩
theorem sbcZpX (d : Byte) : Statement (.sbcZpX d) :=
  ⟨rfl, rfl, (by decide : opcodeLength 0xF5#8 = some 2)⟩
theorem sbcAbs (w : Word) : Statement (.sbcAbs w) :=
  ⟨rfl, rfl, (by decide : opcodeLength 0xED#8 = some 3)⟩
theorem sbcAbsX (w : Word) : Statement (.sbcAbsX w) :=
  ⟨rfl, rfl, (by decide : opcodeLength 0xFD#8 = some 3)⟩
theorem sbcAbsY (w : Word) : Statement (.sbcAbsY w) :=
  ⟨rfl, rfl, (by decide : opcodeLength 0xF9#8 = some 3)⟩
theorem sbcIndX (d : Byte) : Statement (.sbcIndX d) :=
  ⟨rfl, rfl, (by decide : opcodeLength 0xE1#8 = some 2)⟩
theorem sbcIndY (d : Byte) : Statement (.sbcIndY d) :=
  ⟨rfl, rfl, (by decide : opcodeLength 0xF1#8 = some 2)⟩
theorem cmpImm (v : Byte) : Statement (.cmpImm v) :=
  ⟨rfl, rfl, (by decide : opcodeLength 0xC9#8 = some 2)⟩
theorem cmpZp (d : Byte) : Statement (.cmpZp d) :=
  ⟨rfl, rfl, (by decide : opcodeLength 0xC5#8 = some 2)⟩
theorem cmpZpX (d : Byte) : Statement (.cmpZpX d) :=
  ⟨rfl, rfl, (by decide : opcodeLength 0xD5#8 = some 2)⟩
theorem cmpAbs (w : Word) : Statement (.cmpAbs w) :=
  ⟨rfl, rfl, (by decide : opcodeLength 0xCD#8 = some 3)⟩
theorem cmpAbsX (w : Word) : Statement (.cmpAbsX w) :=
  ⟨rfl, rfl, (by decide : opcodeLength 0xDD#8 = some 3)⟩
theorem cmpAbsY (w : Word) : Statement (.cmpAbsY w) :=
  ⟨rfl, rfl, (by decide : opcodeLength 0xD9#8 = some 3)⟩
theorem cmpIndX (d : Byte) : Statement (.cmpIndX d) :=
  ⟨rfl, rfl, (by decide : opcodeLength 0xC1#8 = some 2)⟩
theorem cmpIndY (d : Byte) : Statement (.cmpIndY d) :=
  ⟨rfl, rfl, (by decide : opcodeLength 0xD1#8 = some 2)⟩
theorem cpxImm (v : Byte) : Statement (.cpxImm v) :=
  ⟨rfl, rfl, (by decide : opcodeLength 0xE0#8 = some 2)⟩
theorem cpxZp (d : Byte) : Statement (.cpxZp d) :=
  ⟨rfl, rfl, (by decide : opcodeLength 0xE4#8 = some 2)⟩
theorem cpxAbs (w : Word) : Statement (.cpxAbs w) :=
  ⟨rfl, rfl, (by decide : opcodeLength 0xEC#8 = some 3)⟩
theorem cpyImm (v : Byte) : Statement (.cpyImm v) :=
  ⟨rfl, rfl, (by decide : opcodeLength 0xC0#8 = some 2)⟩
theorem cpyZp (d : Byte) : Statement (.cpyZp d) :=
  ⟨rfl, rfl, (by decide : opcodeLength 0xC4#8 = some 2)⟩
theorem cpyAbs (w : Word) : Statement (.cpyAbs w) :=
  ⟨rfl, rfl, (by decide : opcodeLength 0xCC#8 = some 3)⟩
theorem incZp (d : Byte) : Statement (.incZp d) :=
  ⟨rfl, rfl, (by decide : opcodeLength 0xE6#8 = some 2)⟩
theorem incZpX (d : Byte) : Statement (.incZpX d) :=
  ⟨rfl, rfl, (by decide : opcodeLength 0xF6#8 = some 2)⟩
theorem incAbs (w : Word) : Statement (.incAbs w) :=
  ⟨rfl, rfl, (by decide : opcodeLength 0xEE#8 = some 3)⟩
theorem incAbsX (w : Word) : Statement (.incAbsX w) :=
  ⟨rfl, rfl, (by decide : opcodeLength 0xFE#8 = some 3)⟩
theorem decZp (d : Byte) : Statement (.decZp d) :=
  ⟨rfl, rfl, (by decide : opcodeLength 0xC6#8 = some 2)⟩
theorem decZpX (d : Byte) : Statement (.decZpX d) :=
  ⟨rfl, rfl, (by decide : opcodeLength 0xD6#8 = some 2)⟩
theorem decAbs (w : Word) : Statement (.decAbs w) :=
  ⟨rfl, rfl, (by decide : opcodeLength 0xCE#8 = some 3)⟩
theorem decAbsX (w : Word) : Statement (.decAbsX w) :=
  ⟨rfl, rfl, (by decide : opcodeLength 0xDE#8 = some 3)⟩
theorem inx : Statement .inx :=
  ⟨rfl, rfl, (by decide : opcodeLength 0xE8#8 = some 1)⟩
theorem iny : Statement .iny :=
  ⟨rfl, rfl, (by decide : opcodeLength 0xC8#8 = some 1)⟩
theorem dex : Statement .dex :=
  ⟨rfl, rfl, (by decide : opcodeLength 0xCA#8 = some 1)⟩
theorem dey : Statement .dey :=
  ⟨rfl, rfl, (by decide : opcodeLength 0x88#8 = some 1)⟩
theorem aslAcc : Statement .aslAcc :=
  ⟨rfl, rfl, (by decide : opcodeLength 0x0A#8 = some 1)⟩
theorem aslZp (d : Byte) : Statement (.aslZp d) :=
  ⟨rfl, rfl, (by decide : opcodeLength 0x06#8 = some 2)⟩
theorem aslZpX (d : Byte) : Statement (.aslZpX d) :=
  ⟨rfl, rfl, (by decide : opcodeLength 0x16#8 = some 2)⟩
theorem aslAbs (w : Word) : Statement (.aslAbs w) :=
  ⟨rfl, rfl, (by decide : opcodeLength 0x0E#8 = some 3)⟩
theorem aslAbsX (w : Word) : Statement (.aslAbsX w) :=
  ⟨rfl, rfl, (by decide : opcodeLength 0x1E#8 = some 3)⟩
theorem lsrAcc : Statement .lsrAcc :=
  ⟨rfl, rfl, (by decide : opcodeLength 0x4A#8 = some 1)⟩
theorem lsrZp (d : Byte) : Statement (.lsrZp d) :=
  ⟨rfl, rfl, (by decide : opcodeLength 0x46#8 = some 2)⟩
theorem lsrZpX (d : Byte) : Statement (.lsrZpX d) :=
  ⟨rfl, rfl, (by decide : opcodeLength 0x56#8 = some 2)⟩
theorem lsrAbs (w : Word) : Statement (.lsrAbs w) :=
  ⟨rfl, rfl, (by decide : opcodeLength 0x4E#8 = some 3)⟩
theorem lsrAbsX (w : Word) : Statement (.lsrAbsX w) :=
  ⟨rfl, rfl, (by decide : opcodeLength 0x5E#8 = some 3)⟩
theorem rolAcc : Statement .rolAcc :=
  ⟨rfl, rfl, (by decide : opcodeLength 0x2A#8 = some 1)⟩
theorem rolZp (d : Byte) : Statement (.rolZp d) :=
  ⟨rfl, rfl, (by decide : opcodeLength 0x26#8 = some 2)⟩
theorem rolZpX (d : Byte) : Statement (.rolZpX d) :=
  ⟨rfl, rfl, (by decide : opcodeLength 0x36#8 = some 2)⟩
theorem rolAbs (w : Word) : Statement (.rolAbs w) :=
  ⟨rfl, rfl, (by decide : opcodeLength 0x2E#8 = some 3)⟩
theorem rolAbsX (w : Word) : Statement (.rolAbsX w) :=
  ⟨rfl, rfl, (by decide : opcodeLength 0x3E#8 = some 3)⟩
theorem rorAcc : Statement .rorAcc :=
  ⟨rfl, rfl, (by decide : opcodeLength 0x6A#8 = some 1)⟩
theorem rorZp (d : Byte) : Statement (.rorZp d) :=
  ⟨rfl, rfl, (by decide : opcodeLength 0x66#8 = some 2)⟩
theorem rorZpX (d : Byte) : Statement (.rorZpX d) :=
  ⟨rfl, rfl, (by decide : opcodeLength 0x76#8 = some 2)⟩
theorem rorAbs (w : Word) : Statement (.rorAbs w) :=
  ⟨rfl, rfl, (by decide : opcodeLength 0x6E#8 = some 3)⟩
theorem rorAbsX (w : Word) : Statement (.rorAbsX w) :=
  ⟨rfl, rfl, (by decide : opcodeLength 0x7E#8 = some 3)⟩
theorem jmpAbs (w : Word) : Statement (.jmpAbs w) :=
  ⟨rfl, rfl, (by decide : opcodeLength 0x4C#8 = some 3)⟩
theorem jmpInd (w : Word) : Statement (.jmpInd w) :=
  ⟨rfl, rfl, (by decide : opcodeLength 0x6C#8 = some 3)⟩
theorem jsr (w : Word) : Statement (.jsr w) :=
  ⟨rfl, rfl, (by decide : opcodeLength 0x20#8 = some 3)⟩
theorem rts : Statement .rts :=
  ⟨rfl, rfl, (by decide : opcodeLength 0x60#8 = some 1)⟩
theorem bcc (d : Byte) : Statement (.bcc d) :=
  ⟨rfl, rfl, (by decide : opcodeLength 0x90#8 = some 2)⟩
theorem bcs (d : Byte) : Statement (.bcs d) :=
  ⟨rfl, rfl, (by decide : opcodeLength 0xB0#8 = some 2)⟩
theorem beq (d : Byte) : Statement (.beq d) :=
  ⟨rfl, rfl, (by decide : opcodeLength 0xF0#8 = some 2)⟩
theorem bne (d : Byte) : Statement (.bne d) :=
  ⟨rfl, rfl, (by decide : opcodeLength 0xD0#8 = some 2)⟩
theorem bmi (d : Byte) : Statement (.bmi d) :=
  ⟨rfl, rfl, (by decide : opcodeLength 0x30#8 = some 2)⟩
theorem bpl (d : Byte) : Statement (.bpl d) :=
  ⟨rfl, rfl, (by decide : opcodeLength 0x10#8 = some 2)⟩
theorem bvc (d : Byte) : Statement (.bvc d) :=
  ⟨rfl, rfl, (by decide : opcodeLength 0x50#8 = some 2)⟩
theorem bvs (d : Byte) : Statement (.bvs d) :=
  ⟨rfl, rfl, (by decide : opcodeLength 0x70#8 = some 2)⟩
theorem clc : Statement .clc :=
  ⟨rfl, rfl, (by decide : opcodeLength 0x18#8 = some 1)⟩
theorem sec : Statement .sec :=
  ⟨rfl, rfl, (by decide : opcodeLength 0x38#8 = some 1)⟩
theorem cli : Statement .cli :=
  ⟨rfl, rfl, (by decide : opcodeLength 0x58#8 = some 1)⟩
theorem sei : Statement .sei :=
  ⟨rfl, rfl, (by decide : opcodeLength 0x78#8 = some 1)⟩
theorem cld : Statement .cld :=
  ⟨rfl, rfl, (by decide : opcodeLength 0xD8#8 = some 1)⟩
theorem sed : Statement .sed :=
  ⟨rfl, rfl, (by decide : opcodeLength 0xF8#8 = some 1)⟩
theorem clv : Statement .clv :=
  ⟨rfl, rfl, (by decide : opcodeLength 0xB8#8 = some 1)⟩
theorem nop : Statement .nop :=
  ⟨rfl, rfl, (by decide : opcodeLength 0xEA#8 = some 1)⟩
theorem brk : Statement .brk :=
  ⟨rfl, rfl, (by decide : opcodeLength 0x00#8 = some 1)⟩
theorem rti : Statement .rti :=
  ⟨rfl, rfl, (by decide : opcodeLength 0x40#8 = some 1)⟩

end Sys2Proof.Laws.Encoding
end

