-- ==== Sys2Proof/Laws/Plain.lean ====
section
/-! SUPPORT. What the shapes, the stack operations and a trap come to on plain bytes, and the one-operand and compare operations of the
ALU in ordinary numbers: the equations the statements about single instructions are proved from. -/

namespace Sys2Proof.Machine

/-! ## Words and PC -/

@[simp] theorem word_of_hi_lo (w : Word) : BitVec.ofNat 16 ((hi8 w).toNat * 256 + (lo8 w).toNat) = w := by
  apply BitVec.eq_of_toNat_eq
  rw [BitVec.toNat_ofNat, hi8_toNat, lo8_toNat]
  have := w.isLt
  omega

@[simp] theorem joinWord_hi_lo (w : Word) : joinWord (hi8 w) (lo8 w) = w := by rw [joinWord_eq, word_of_hi_lo]

theorem pc_add_eq (n : Nat) (s : State) : s.pc + BitVec.ofNat 16 n = s.pcPlus n := by
  apply BitVec.eq_of_toNat_eq
  simp [State.pcPlus, BitVec.toNat_add]

/-- The bookkeeping of an instruction that is no control transfer. -/
theorem completed_eq (i : Instr) (n : Nat) (s : State) : retire i n (advance i s) = s.completed i (i.row.cycles + n) := by
  simp only [retire, advance, State.completed, State.accounted, pc_add_eq]

theorem peekWord_some {s : State} {l h w : Word} (e : s.peekWord l h = some w) :
    ∃ lo hi : Byte, s.peek l = some lo ∧ s.peek h = some hi ∧ w = joinWord hi lo := by
  obtain ⟨lo, hlo, e⟩ := Option.bind_eq_some_iff.mp e
  obtain ⟨hi, hhi, rfl⟩ := Option.map_eq_some_iff.mp e
  exact ⟨lo, hi, hlo, hhi, (joinWord_eq _ _).symm⟩

/-- A plain write does not look at SP. -/
theorem poke_withSp {s t : State} {a : Word} {v : Byte} (sp : Byte) (h : s.poke a v = some t) :
    State.poke { s with sp := sp } a v = some { t with sp := sp } := by
  rcases poke_some h with ⟨hd, rfl⟩ | ⟨st, i, ts, hw, hts, rfl⟩
  · have : writeBinding { t with sp := sp } a = .drop := hd
    simp [State.poke, this]
  · have : writeBinding { s with sp := sp } a = .array st i := hw
    simp [State.poke, this, hts]

/-- A plain write does not look at P. -/
theorem poke_withP {s t : State} {a : Word} {v : Byte} (p : Byte) (h : s.poke a v = some t) :
    State.poke { s with p := p } a v = some { t with p := p } := by
  rcases poke_some h with ⟨hd, rfl⟩ | ⟨st, i, ts, hw, hts, rfl⟩
  · have : writeBinding { t with p := p } a = .drop := hd
    simp [State.poke, this]
  · have : writeBinding { s with p := p } a = .array st i := hw
    simp [State.poke, this, hts]

/-! ## Shapes -/

theorem readShape_of_value {i : Instr} {src : Src} {f : Byte → State → State} {s : State} {v : Byte} {c : Bool}
    (h : s.value src = some (v, c)) : readShape i src f s = .next ((f v s).completed i (readCycles i c)) := by
  simp only [readShape, operand_of_value h, andThen_next, finish, completed_eq]
  congr 2

theorem storeShape_of_poke {i : Instr} {e : Ea} {v : Byte} {s t : State} {a : Word} (h : s.address e = some a)
    (hp : s.poke a v = some t) : storeShape i e v s = .next (t.completed i i.row.cycles) := by
  obtain ⟨⟨n, c⟩, hn, rfl⟩ := Option.map_eq_some_iff.mp h
  simp only [storeShape, resolve_of_effective hn, andThen_next, memWrite_of_poke hp, finish, completed_eq, Nat.add_zero]

theorem modifyShape_of_poke {i : Instr} {e : Ea} {f : Byte → Byte → Byte × Byte} {v : Byte} {s t : State} {a : Word}
    (h : s.address e = some a) (hr : s.peek a = some v) (hp : s.poke a (f s.p v).1 = some t) :
    modifyShape i e f s = .next { t.completed i i.row.cycles with p := (f s.p v).2 } := by
  obtain ⟨⟨n, c⟩, hn, rfl⟩ := Option.map_eq_some_iff.mp h
  simp only [modifyShape, resolve_of_effective hn, andThen_next, memRead_of_peek hr,
    memWrite_of_poke (poke_withP (setC (flagC (f s.p v).2) s.p) hp), finish, completed_eq, Nat.add_zero]
  rfl

theorem registerShape_eq (i : Instr) (f : State → State) (s : State) :
    registerShape i f s = .next ((f s).completed i i.row.cycles) := by
  simp only [registerShape, finish, completed_eq, Nat.add_zero]

/-! ## The stack -/

theorem stackAddress_eq (sp : Byte) : stackAddress sp = stackBelow sp 0 := by revert sp; decide
theorem stackAddress_sub_one (sp : Byte) : stackAddress (sp - 1#8) = stackBelow sp 1 := by revert sp; decide
theorem stackAddress_sub_two (sp : Byte) : stackAddress (sp - 1#8 - 1#8) = stackBelow sp 2 := by revert sp; decide
theorem stackAddress_add_one (sp : Byte) : stackAddress (sp + 1#8) = stackAbove sp 1 := by revert sp; decide
theorem stackAddress_add_two (sp : Byte) : stackAddress (sp + 1#8 + 1#8) = stackAbove sp 2 := by revert sp; decide
theorem stackAddress_add_three (sp : Byte) : stackAddress (sp + 1#8 + 1#8 + 1#8) = stackAbove sp 3 := by revert sp; decide

theorem push_plain {v : Byte} {s t : State} (h : s.poke (stackBelow s.sp 0) v = some t) :
    push v s = .next { t with sp := s.sp - 1#8 } :=
  push_of_poke (by rw [stackAddress_eq]; exact h)

theorem pokes_two {s t : State} {a b : Word} {v w : Byte} (h : s.pokes [(a, v), (b, w)] = some t) :
    ∃ u, s.poke a v = some u ∧ u.poke b w = some t := by
  obtain ⟨u, hu, h⟩ := Option.bind_eq_some_iff.mp h
  obtain ⟨k, hk, h⟩ := Option.bind_eq_some_iff.mp h
  injection h with h
  subst h
  exact ⟨u, hu, hk⟩

theorem pokes_three {s t : State} {a b c : Word} {v w x : Byte} (h : s.pokes [(a, v), (b, w), (c, x)] = some t) :
    ∃ u, s.pokes [(a, v), (b, w)] = some u ∧ u.poke c x = some t := by
  obtain ⟨u, hu, h⟩ := Option.bind_eq_some_iff.mp h
  obtain ⟨k, hk, h⟩ := Option.bind_eq_some_iff.mp h
  obtain ⟨l, hl, h⟩ := Option.bind_eq_some_iff.mp h
  injection h with h
  subst h
  exact ⟨k, by simp [State.pokes, hu, hk], hl⟩

theorem pushWord_plain {s t : State} {n : Nat} {w : Word} (hw : w.toNat = n)
    (h : s.pokes [(stackBelow s.sp 0, BitVec.ofNat 8 (n / 256)), (stackBelow s.sp 1, BitVec.ofNat 8 (n % 256))] = some t) :
    pushWord w s = .next { t with sp := s.sp - 1#8 - 1#8 } := by
  obtain ⟨u, hu, ht⟩ := pokes_two h
  have e1 : hi8 w = BitVec.ofNat 8 (n / 256) := by
    apply BitVec.eq_of_toNat_eq; rw [hi8_toNat, BitVec.toNat_ofNat, ← hw]; have := w.isLt; omega
  have e2 : lo8 w = BitVec.ofNat 8 (n % 256) := by
    apply BitVec.eq_of_toNat_eq; rw [lo8_toNat, BitVec.toNat_ofNat, ← hw]; omega
  rw [← e1] at hu
  rw [← e2] at ht
  simp only [pushWord, push_plain hu, andThen_next]
  rw [push_of_poke (t := { t with sp := s.sp - 1#8 })]
  have k := poke_withSp (s.sp - 1#8) ht
  rw [← stackAddress_sub_one] at k
  exact k

/-- What may change in memory composes. -/
theorem SameBytesBut.trans {c d : List Word} {s t u : State} (h : SameBytesBut c s t) (k : SameBytesBut d t u)
    (hp : t.params = s.params) (hc : t.cfg = s.cfg) (hu : u.params = t.params) : SameBytesBut (c ++ d) s u := by
  have hw : ∀ a, writeBinding t a = writeBinding s a := fun a => by simp only [writeBinding, activeOps, hp, hc]
  refine .of_bytes (hu.trans hp) fun st i hb => ?_
  rw [k.bytes st i fun a ha => by rw [hw]; exact hb a (by simp [ha]), h.bytes st i fun a ha => hb a (by simp [ha])]

theorem pokes_sameBytesBut {cs : List (Word × Byte)} {s t : State} (h : s.pokes cs = some t) :
    SameBytesBut (cs.map Prod.fst) s t := by
  induction cs generalizing s with
  | nil => injection h with h; subst h; exact SameBytesBut.refl _ _
  | cons c cs ih =>
    obtain ⟨u, hu, h⟩ := Option.bind_eq_some_iff.mp h
    have k := poke_stores hu
    exact (poke_sameBytesBut hu).trans (ih h) (by rw [k]) (by rw [k]) (by rw [pokes_stores h])

/-- A trap whose stack and vector bytes are plain (R336, R319). -/
theorem takeTrap_plain {s t : State} {ret : Word} {n : Nat} {copy : Byte} {vec w : Word} (hn : ret.toNat = n)
    (h : s.pokes (trapPushes s.sp n copy) = some t) (hv : t.peekWord vec (vec + 1#16) = some w) :
    takeTrap ret copy vec s = .next { t with sp := s.sp - 1#8 - 1#8 - 1#8, p := setI true s.p, pc := w } := by
  obtain ⟨u, hu, ht⟩ := pokes_three h
  have hp : t.p = s.p := by rw [pokes_stores h]
  have ht2 := poke_withSp (s.sp - 1#8 - 1#8) ht
  rw [← stackAddress_sub_two] at ht2
  obtain ⟨lo, hi, hlo, hhi, rfl⟩ := peekWord_some hv
  simp only [takeTrap, pushWord_plain hn hu, andThen_next]
  rw [push_of_poke (s := { u with sp := s.sp - 1#8 - 1#8 }) ht2]
  simp only [andThen_next, memReadWord]
  let k : State := { t with sp := s.sp - 1#8 - 1#8 - 1#8, p := setI true t.p }
  have h1 : memRead vec k = .next (lo, k) := memRead_of_peek (s := k) hlo
  have h2 : memRead (vec + 1#16) k = .next (hi, k) := memRead_of_peek (s := k) hhi
  show andThen (andThen (memRead vec k) _) _ = _
  rw [h1, andThen_next]
  show andThen (andThen (memRead (vec + 1#16) k) _) _ = _
  rw [h2]
  simp only [andThen_next, k, hp]

/-! ## The ALU -/

theorem byte_add_one (v : Byte) : v + 1#8 = BitVec.ofNat 8 (v.toNat + 1) := by revert v; decide
theorem byte_sub_one (v : Byte) : v - 1#8 = BitVec.ofNat 8 (v.toNat + 255) := by revert v; decide
theorem top_bit (v : Byte) : v.getLsbD 7 = decide (128 ≤ v.toNat) := by revert v; decide
theorem bottom_bit (v : Byte) : v.getLsbD 0 = decide (v.toNat % 2 = 1) := by revert v; decide
theorem shift_left_one (v : Byte) : v <<< 1 = BitVec.ofNat 8 (2 * v.toNat) := by revert v; decide
theorem shift_right_one (v : Byte) : v >>> 1 = BitVec.ofNat 8 (v.toNat / 2) := by revert v; decide
theorem rotate_left_one (v : Byte) (c : Bool) :
    (v <<< 1) ||| (if c then 0x01#8 else 0x00#8) = BitVec.ofNat 8 (2 * v.toNat + c.toNat) := by revert v c; decide
theorem rotate_right_one (v : Byte) (c : Bool) :
    (v >>> 1) ||| (if c then 0x80#8 else 0x00#8) = BitVec.ofNat 8 (v.toNat / 2 + 128 * c.toNat) := by revert v c; decide

/-- One flag written, in bits (R26 to R31). -/
theorem setC_eq (b : Bool) (p : Byte) :
    setC b p = statusByte (flagN p) (flagV p) (flagU p) (flagB p) (flagD p) (flagI p) (flagZ p) b := by
  conv_lhs => rw [← statusByte_flags p]
  simp
theorem setI_eq (b : Bool) (p : Byte) :
    setI b p = statusByte (flagN p) (flagV p) (flagU p) (flagB p) (flagD p) b (flagZ p) (flagC p) := by
  conv_lhs => rw [← statusByte_flags p]
  simp
theorem setD_eq (b : Bool) (p : Byte) :
    setD b p = statusByte (flagN p) (flagV p) (flagU p) (flagB p) b (flagI p) (flagZ p) (flagC p) := by
  conv_lhs => rw [← statusByte_flags p]
  simp
theorem setV_eq (b : Bool) (p : Byte) :
    setV b p = statusByte (flagN p) b (flagU p) (flagB p) (flagD p) (flagI p) (flagZ p) (flagC p) := by
  conv_lhs => rw [← statusByte_flags p]
  simp

/-- BIT in bits (R244). -/
theorem bitAlu_eq (p a m : Byte) :
    bitAlu p a m = withNZCV p (m.getLsbD 7) (decide (a &&& m = 0x00#8)) (flagC p) (m.getLsbD 6) := by
  conv_lhs => rw [← statusByte_flags p]
  simp only [bitAlu, withNZCV, setZ_statusByte, setN_statusByte, setV_statusByte]
  congr 1

/-- A compare in ordinary numbers (R255). -/
theorem compareAlu_eq (p r m : Byte) :
    compareAlu p r m =
      withNZCV p (decide (128 ≤ (r.toNat + 256 - m.toNat) % 256)) (decide (r = m)) (decide (m.toNat ≤ r.toNat)) (flagV p) := by
  conv_lhs => rw [← statusByte_flags p]
  have : (r - m).toNat = (r.toNat + 256 - m.toNat) % 256 := by rw [BitVec.toNat_sub]; have := m.isLt; omega
  simp only [compareAlu, setC_statusByte, setZ_statusByte, setN_statusByte, withNZCV, sign_test, this]
  congr 1

theorem incAlu_eq (p v : Byte) :
    incAlu p v = (BitVec.ofNat 8 (v.toNat + 1), withNZC p (BitVec.ofNat 8 (v.toNat + 1)) (flagC p)) := by
  simp only [incAlu, setNZ_eq, byte_add_one]; rfl

theorem decAlu_eq (p v : Byte) :
    decAlu p v = (BitVec.ofNat 8 (v.toNat + 255), withNZC p (BitVec.ofNat 8 (v.toNat + 255)) (flagC p)) := by
  simp only [decAlu, setNZ_eq, byte_sub_one]; rfl

theorem aslAlu_eq (p v : Byte) :
    aslAlu p v = (BitVec.ofNat 8 (2 * v.toNat), withNZC p (BitVec.ofNat 8 (2 * v.toNat)) (decide (128 ≤ v.toNat))) := by
  simp only [aslAlu, setNZ_setC_eq, shift_left_one, top_bit]

theorem lsrAlu_eq (p v : Byte) :
    lsrAlu p v = (BitVec.ofNat 8 (v.toNat / 2), withNZC p (BitVec.ofNat 8 (v.toNat / 2)) (decide (v.toNat % 2 = 1))) := by
  simp only [lsrAlu, setNZ_setC_eq, shift_right_one, bottom_bit]

theorem rolAlu_eq (p v : Byte) :
    rolAlu p v = (BitVec.ofNat 8 (2 * v.toNat + (flagC p).toNat),
      withNZC p (BitVec.ofNat 8 (2 * v.toNat + (flagC p).toNat)) (decide (128 ≤ v.toNat))) := by
  simp only [rolAlu, setNZ_setC_eq, rotate_left_one, top_bit]

theorem rorAlu_eq (p v : Byte) :
    rorAlu p v = (BitVec.ofNat 8 (v.toNat / 2 + 128 * (flagC p).toNat),
      withNZC p (BitVec.ofNat 8 (v.toNat / 2 + 128 * (flagC p).toNat)) (decide (v.toNat % 2 = 1))) := by
  simp only [rorAlu, setNZ_setC_eq, rotate_right_one, bottom_bit]

end Sys2Proof.Machine
end

