-- ==== Sys2Proof/Laws/RunControl.lean ====
section
/-! SUPPORT. What asking the evaluators can do, and what a run that they stop has done (spec/60_exceptions.md R360, R361). -/

namespace Sys2Proof.Machine

/-- The evaluators stop a run exactly at the first that says no, with that answer's reason. -/
theorem firstStop_eq_some {es : List Evaluator} {view : RunView} {base index : Nat} {reason : Option String} :
    firstStop es view base = some (index, reason) ↔
      ∃ k e, index = base + k ∧ es[k]? = some e ∧ e view = ⟨false, reason⟩ ∧ ∀ j < k, ∀ f, es[j]? = some f → (f view).continues = true := by
  induction es generalizing base with
  | nil => simp [firstStop]
  | cons e rest ih =>
    by_cases h : (e view).continues = true
    · simp only [firstStop, h, if_true, ih]
      constructor
      · rintro ⟨k, f, rfl, hf, hv, hj⟩
        refine ⟨k + 1, f, by omega, hf, hv, fun j hk g hg => ?_⟩
        cases j with
        | zero => cases hg; exact h
        | succ j => exact hj j (by omega) g hg
      · rintro ⟨k, f, rfl, hf, hv, hj⟩
        cases k with
        | zero => cases hf; simp [hv] at h
        | succ k => exact ⟨k, f, by omega, hf, hv, fun j hk g hg => hj (j + 1) (by omega) g hg⟩
    · rw [show firstStop (e :: rest) view base = some (base, (e view).reason) by simp [firstStop, h]]
      constructor
      · rintro ⟨rfl, rfl⟩
        exact ⟨0, e, rfl, rfl, by cases hv : e view; simp_all, fun j hj => by omega⟩
      · rintro ⟨k, f, rfl, hf, hv, hj⟩
        cases k with
        | zero => cases hf; simp [hv]
        | succ k => exact absurd (hj 0 (by omega) e rfl) h

/-- They let it go on exactly where all say so. -/
theorem firstStop_eq_none {es : List Evaluator} {view : RunView} {base : Nat} :
    firstStop es view base = none ↔ ∀ e ∈ es, (e view).continues = true := by
  induction es generalizing base with
  | nil => simp [firstStop]
  | cons e rest ih => by_cases h : (e view).continues <;> simp [firstStop, h, ih]

/-- A run that evaluators stop has made some steps after which all said so, and then the step after which one did not. -/
theorem executeLoop_stopped {es : List Evaluator} {start s t : State} {fuel index : Nat} {reason : Option String}
    (h : executeLoop es start fuel s = .stopped index reason t) :
    ∃ n before, n < fuel ∧ executeLoop es start n s = .running before ∧ step before = .next t ∧ t.es.lastHandled = true ∧
      firstStop es ⟨start, before, t⟩ 0 = some (index, reason) := by
  induction fuel generalizing s with
  | zero => cases h
  | succ fuel ih =>
    simp only [executeLoop] at h
    split at h
    · cases h
    · cases h
    · next u hu =>
      split at h
      · next hl =>
        split at h
        · next hf =>
          injection h with h1 h2 h3
          subst h1 h2 h3
          exact ⟨0, s, by omega, rfl, hu, hl, hf⟩
        · next hf =>
          obtain ⟨n, before, hn, hr, hs⟩ := ih h
          exact ⟨n + 1, before, by omega, by simp only [executeLoop, hu, hl, hf, if_true, hr], hs⟩
      · cases h

end Sys2Proof.Machine
end

