-- ==== Sys2Proof/Machine/Assembly.lean ====
section
/-! DEFINITION. The conventional assembler notation of an instruction (spec/30_encoding.md R130, R131; the Assembler column of files 41 to
47). Nothing in the step uses it. -/

namespace Sys2Proof

/-- The three upper-case letters of a mnemonic (R130). -/
def Mnemonic.text : Mnemonic → String
  | .lda => "LDA" | .ldx => "LDX" | .ldy => "LDY" | .sta => "STA" | .stx => "STX" | .sty => "STY" | .tax => "TAX" | .tay => "TAY"
  | .txa => "TXA" | .tya => "TYA" | .tsx => "TSX" | .txs => "TXS" | .pha => "PHA" | .php => "PHP" | .pla => "PLA" | .plp => "PLP"
  | .and => "AND" | .ora => "ORA" | .eor => "EOR" | .bit => "BIT" | .adc => "ADC" | .sbc => "SBC" | .cmp => "CMP" | .cpx => "CPX"
  | .cpy => "CPY" | .inc => "INC" | .dec => "DEC" | .inx => "INX" | .iny => "INY" | .dex => "DEX" | .dey => "DEY" | .asl => "ASL"
  | .lsr => "LSR" | .rol => "ROL" | .ror => "ROR" | .jmp => "JMP" | .jsr => "JSR" | .rts => "RTS" | .bcc => "BCC" | .bcs => "BCS"
  | .beq => "BEQ" | .bne => "BNE" | .bmi => "BMI" | .bpl => "BPL" | .bvc => "BVC" | .bvs => "BVS" | .clc => "CLC" | .sec => "SEC"
  | .cli => "CLI" | .sei => "SEI" | .cld => "CLD" | .sed => "SED" | .clv => "CLV" | .nop => "NOP" | .brk => "BRK" | .rti => "RTI"

/-- One hexadecimal digit. -/
def hexDigit (n : Nat) : Char := ['0', '1', '2', '3', '4', '5', '6', '7', '8', '9', 'A', 'B', 'C', 'D', 'E', 'F'].getD (n % 16) '0'

/-- `$hh`. -/
def hexByte (b : Byte) : List Char := ['$', hexDigit (b.toNat / 16), hexDigit b.toNat]

/-- `$hhll`. -/
def hexWord (w : Word) : List Char :=
  ['$', hexDigit (w.toNat / 4096), hexDigit (w.toNat / 256), hexDigit (w.toNat / 16), hexDigit w.toNat]

/-- The operand as R130 writes it, for an instruction at `here`; a branch names its target (40_step_and_addressing.md R167). -/
def operandText (mode : Mode) (operand : List Byte) (here : Word) : List Char :=
  match mode, operand with
  | .acc, _ => ['A']
  | .imm, [v] => '#' :: hexByte v
  | .zp, [d] => hexByte d
  | .zpx, [d] => hexByte d ++ [',', 'X']
  | .zpy, [d] => hexByte d ++ [',', 'Y']
  | .rel, [d] => hexWord (here + 2#16 + sext16 d)
  | .abs, [l, h] => hexWord (joinWord h l)
  | .absx, [l, h] => hexWord (joinWord h l) ++ [',', 'X']
  | .absy, [l, h] => hexWord (joinWord h l) ++ [',', 'Y']
  | .ind, [l, h] => '(' :: hexWord (joinWord h l) ++ [')']
  | .indx, [d] => '(' :: hexByte d ++ [',', 'X', ')']
  | .indy, [d] => '(' :: hexByte d ++ [')', ',', 'Y']
  | _, _ => []

/-- The line R130 writes for an instruction at `here`, without label or comment. -/
def Instr.text (i : Instr) (here : Word) : List Char :=
  match operandText i.row.mode i.operand here with
  | [] => i.row.mnemonic.text.toList
  | cs => i.row.mnemonic.text.toList ++ ' ' :: cs

/-- The offset byte the assembler stores for a branch at `here` to `target`, if it lies in -128 to 127 (R130). -/
def branchOffset (here target : Word) : Option Byte :=
  let d := target - (here + 2#16)
  if d.toInt < -128 ∨ 127 < d.toInt then none else some (BitVec.ofInt 8 d.toInt)

/-- The bytes of the directive `.word w` (R131). -/
def wordDirective (w : Word) : List Byte := [lo8 w, hi8 w]

end Sys2Proof
end

