-- ==== Sys2Proof/Tests/Slice0.lean ====
section
/-! SUPPORT. Tests: ill-formed terms, decoding of words spelled from the spec's encoding tables, single steps of
spec/95_test_vectors.md (expected results are that file's, none the model's own), and a named witness for the hypotheses of every
statement that has hypotheses. -/

namespace Sys2Proof.Tests
open Sys2Proof Sys2Proof.Machine

/-! ## Well-formedness (20_memory.md R64): an ill-formed term for each check -/

theorem test_wf_no_configuration : Params.wellFormed { configs := [] } [65536] = false := by decide
theorem test_wf_ram_past_address_space : Params.wellFormed { configs := [[.mapRam 0xFFFF 0 0 2]] } [65536] = false := by decide
theorem test_wf_ram_past_store : Params.wellFormed { configs := [[.mapRam 0 0 1 16]] } [16] = false := by decide
theorem test_wf_rom_past_address_space : Params.wellFormed { configs := [[.mapRom 0xFFF8 0 0 16]] } [16] = false := by decide
theorem test_wf_rom_past_store : Params.wellFormed { configs := [[], [.mapRom 0 0 0 17]] } [16] = false := by decide
theorem test_wf_no_such_store : Params.wellFormed { configs := [[.mapRam 0 1 0 1]] } [16] = false := by decide
theorem test_wf_reader_past_address_space : Params.wellFormed { configs := [[.mapReader 0x10000 0]] } [16] = false := by decide
theorem test_wf_writer_past_address_space : Params.wellFormed { configs := [[.mapWriter 0x10000 0]] } [16] = false := by decide
theorem test_wf_up_to_the_edges : Params.wellFormed
    { configs := [[.mapRam 0xFFF0 0 0 16, .mapRom 0 0 8 8, .mapReader 0xFFFF 7, .mapWriter 0xFFFF 7]] } [16] = true := by decide

/-! ## Decoding: every constructor, from the encoding tables of files 41 to 47 -/

/-- Each word, of so many bits, decodes to the instruction beside it. -/
def spell (rows : List (Nat × Nat × Instr)) : Bool := rows.all fun r => decodeTableWord r.1 r.2.1 == some r.2.2

/-- Load, store and transfer (41_load_store_transfer.md): words spelled from the encoding tables, operand 0xC5 or 0x12F7. -/
theorem test_decode_load_store_transfer_1 : spell
    [(16, 0xC5A9, .ldaImm 0xC5#8), (16, 0xC5A5, .ldaZp 0xC5#8), (16, 0xC5B5, .ldaZpX 0xC5#8), (24, 0x12F7AD, .ldaAbs 0x12F7#16),
    (24, 0x12F7BD, .ldaAbsX 0x12F7#16), (24, 0x12F7B9, .ldaAbsY 0x12F7#16), (16, 0xC5A1, .ldaIndX 0xC5#8), (16, 0xC5B1, .ldaIndY 0xC5#8),
    (16, 0xC5A2, .ldxImm 0xC5#8), (16, 0xC5A6, .ldxZp 0xC5#8), (16, 0xC5B6, .ldxZpY 0xC5#8), (24, 0x12F7AE, .ldxAbs 0x12F7#16)] = true := by decide

/-- Load, store and transfer (41_load_store_transfer.md): words spelled from the encoding tables, operand 0xC5 or 0x12F7. -/
theorem test_decode_load_store_transfer_2 : spell
    [(24, 0x12F7BE, .ldxAbsY 0x12F7#16), (16, 0xC5A0, .ldyImm 0xC5#8), (16, 0xC5A4, .ldyZp 0xC5#8), (16, 0xC5B4, .ldyZpX 0xC5#8),
    (24, 0x12F7AC, .ldyAbs 0x12F7#16), (24, 0x12F7BC, .ldyAbsX 0x12F7#16), (16, 0xC585, .staZp 0xC5#8), (16, 0xC595, .staZpX 0xC5#8),
    (24, 0x12F78D, .staAbs 0x12F7#16), (24, 0x12F79D, .staAbsX 0x12F7#16), (24, 0x12F799, .staAbsY 0x12F7#16),
    (16, 0xC581, .staIndX 0xC5#8)] = true := by decide

/-- Load, store and transfer (41_load_store_transfer.md): words spelled from the encoding tables, operand 0xC5 or 0x12F7. -/
theorem test_decode_load_store_transfer_3 : spell
    [(16, 0xC591, .staIndY 0xC5#8), (16, 0xC586, .stxZp 0xC5#8), (16, 0xC596, .stxZpY 0xC5#8), (24, 0x12F78E, .stxAbs 0x12F7#16),
    (16, 0xC584, .styZp 0xC5#8), (16, 0xC594, .styZpX 0xC5#8), (24, 0x12F78C, .styAbs 0x12F7#16), (8, 0xAA, .tax), (8, 0xA8, .tay),
    (8, 0x8A, .txa), (8, 0x98, .tya), (8, 0xBA, .tsx)] = true := by decide

/-- Load, store and transfer (41_load_store_transfer.md): words spelled from the encoding tables, operand 0xC5 or 0x12F7. -/
theorem test_decode_load_store_transfer_4 : spell
    [(8, 0x9A, .txs)] = true := by decide

/-- Stack (42_stack.md): words spelled from the encoding tables, operand 0xC5 or 0x12F7. -/
theorem test_decode_stack : spell
    [(8, 0x48, .pha), (8, 0x08, .php), (8, 0x68, .pla), (8, 0x28, .plp)] = true := by decide

/-- Logic and bit test (43_logic_bit.md): words spelled from the encoding tables, operand 0xC5 or 0x12F7. -/
theorem test_decode_logic_1 : spell
    [(16, 0xC529, .andImm 0xC5#8), (16, 0xC525, .andZp 0xC5#8), (16, 0xC535, .andZpX 0xC5#8), (24, 0x12F72D, .andAbs 0x12F7#16),
    (24, 0x12F73D, .andAbsX 0x12F7#16), (24, 0x12F739, .andAbsY 0x12F7#16), (16, 0xC521, .andIndX 0xC5#8), (16, 0xC531, .andIndY 0xC5#8),
    (16, 0xC509, .oraImm 0xC5#8), (16, 0xC505, .oraZp 0xC5#8), (16, 0xC515, .oraZpX 0xC5#8), (24, 0x12F70D, .oraAbs 0x12F7#16)] = true := by decide

/-- Logic and bit test (43_logic_bit.md): words spelled from the encoding tables, operand 0xC5 or 0x12F7. -/
theorem test_decode_logic_2 : spell
    [(24, 0x12F71D, .oraAbsX 0x12F7#16), (24, 0x12F719, .oraAbsY 0x12F7#16), (16, 0xC501, .oraIndX 0xC5#8), (16, 0xC511, .oraIndY 0xC5#8),
    (16, 0xC549, .eorImm 0xC5#8), (16, 0xC545, .eorZp 0xC5#8), (16, 0xC555, .eorZpX 0xC5#8), (24, 0x12F74D, .eorAbs 0x12F7#16),
    (24, 0x12F75D, .eorAbsX 0x12F7#16), (24, 0x12F759, .eorAbsY 0x12F7#16), (16, 0xC541, .eorIndX 0xC5#8), (16, 0xC551, .eorIndY 0xC5#8)] = true := by decide

/-- Logic and bit test (43_logic_bit.md): words spelled from the encoding tables, operand 0xC5 or 0x12F7. -/
theorem test_decode_logic_3 : spell
    [(16, 0xC524, .bitZp 0xC5#8), (24, 0x12F72C, .bitAbs 0x12F7#16)] = true := by decide

/-- Arithmetic and compare (44_arithmetic_compare.md): words spelled from the encoding tables, operand 0xC5 or 0x12F7. -/
theorem test_decode_arithmetic_1 : spell
    [(16, 0xC569, .adcImm 0xC5#8), (16, 0xC565, .adcZp 0xC5#8), (16, 0xC575, .adcZpX 0xC5#8), (24, 0x12F76D, .adcAbs 0x12F7#16),
    (24, 0x12F77D, .adcAbsX 0x12F7#16), (24, 0x12F779, .adcAbsY 0x12F7#16), (16, 0xC561, .adcIndX 0xC5#8), (16, 0xC571, .adcIndY 0xC5#8),
    (16, 0xC5E9, .sbcImm 0xC5#8), (16, 0xC5E5, .sbcZp 0xC5#8), (16, 0xC5F5, .sbcZpX 0xC5#8), (24, 0x12F7ED, .sbcAbs 0x12F7#16)] = true := by decide

/-- Arithmetic and compare (44_arithmetic_compare.md): words spelled from the encoding tables, operand 0xC5 or 0x12F7. -/
theorem test_decode_arithmetic_2 : spell
    [(24, 0x12F7FD, .sbcAbsX 0x12F7#16), (24, 0x12F7F9, .sbcAbsY 0x12F7#16), (16, 0xC5E1, .sbcIndX 0xC5#8), (16, 0xC5F1, .sbcIndY 0xC5#8),
    (16, 0xC5C9, .cmpImm 0xC5#8), (16, 0xC5C5, .cmpZp 0xC5#8), (16, 0xC5D5, .cmpZpX 0xC5#8), (24, 0x12F7CD, .cmpAbs 0x12F7#16),
    (24, 0x12F7DD, .cmpAbsX 0x12F7#16), (24, 0x12F7D9, .cmpAbsY 0x12F7#16), (16, 0xC5C1, .cmpIndX 0xC5#8), (16, 0xC5D1, .cmpIndY 0xC5#8)] = true := by decide

/-- Arithmetic and compare (44_arithmetic_compare.md): words spelled from the encoding tables, operand 0xC5 or 0x12F7. -/
theorem test_decode_arithmetic_3 : spell
    [(16, 0xC5E0, .cpxImm 0xC5#8), (16, 0xC5E4, .cpxZp 0xC5#8), (24, 0x12F7EC, .cpxAbs 0x12F7#16), (16, 0xC5C0, .cpyImm 0xC5#8),
    (16, 0xC5C4, .cpyZp 0xC5#8), (24, 0x12F7CC, .cpyAbs 0x12F7#16)] = true := by decide

/-- Increment, decrement, shift, rotate (45_incdec_shift.md): words spelled from the encoding tables, operand 0xC5 or 0x12F7. -/
theorem test_decode_incdec_shift_1 : spell
    [(16, 0xC5E6, .incZp 0xC5#8), (16, 0xC5F6, .incZpX 0xC5#8), (24, 0x12F7EE, .incAbs 0x12F7#16), (24, 0x12F7FE, .incAbsX 0x12F7#16),
    (16, 0xC5C6, .decZp 0xC5#8), (16, 0xC5D6, .decZpX 0xC5#8), (24, 0x12F7CE, .decAbs 0x12F7#16), (24, 0x12F7DE, .decAbsX 0x12F7#16),
    (8, 0xE8, .inx), (8, 0xC8, .iny), (8, 0xCA, .dex), (8, 0x88, .dey)] = true := by decide

/-- Increment, decrement, shift, rotate (45_incdec_shift.md): words spelled from the encoding tables, operand 0xC5 or 0x12F7. -/
theorem test_decode_incdec_shift_2 : spell
    [(8, 0x0A, .aslAcc), (16, 0xC506, .aslZp 0xC5#8), (16, 0xC516, .aslZpX 0xC5#8), (24, 0x12F70E, .aslAbs 0x12F7#16),
    (24, 0x12F71E, .aslAbsX 0x12F7#16), (8, 0x4A, .lsrAcc), (16, 0xC546, .lsrZp 0xC5#8), (16, 0xC556, .lsrZpX 0xC5#8),
    (24, 0x12F74E, .lsrAbs 0x12F7#16), (24, 0x12F75E, .lsrAbsX 0x12F7#16), (8, 0x2A, .rolAcc), (16, 0xC526, .rolZp 0xC5#8)] = true := by decide

/-- Increment, decrement, shift, rotate (45_incdec_shift.md): words spelled from the encoding tables, operand 0xC5 or 0x12F7. -/
theorem test_decode_incdec_shift_3 : spell
    [(16, 0xC536, .rolZpX 0xC5#8), (24, 0x12F72E, .rolAbs 0x12F7#16), (24, 0x12F73E, .rolAbsX 0x12F7#16), (8, 0x6A, .rorAcc),
    (16, 0xC566, .rorZp 0xC5#8), (16, 0xC576, .rorZpX 0xC5#8), (24, 0x12F76E, .rorAbs 0x12F7#16), (24, 0x12F77E, .rorAbsX 0x12F7#16)] = true := by decide

/-- Control transfer (46_control_transfer.md): words spelled from the encoding tables, operand 0xC5 or 0x12F7. -/
theorem test_decode_control : spell
    [(24, 0x12F74C, .jmpAbs 0x12F7#16), (24, 0x12F76C, .jmpInd 0x12F7#16), (24, 0x12F720, .jsr 0x12F7#16), (8, 0x60, .rts),
    (16, 0xC590, .bcc 0xC5#8), (16, 0xC5B0, .bcs 0xC5#8), (16, 0xC5F0, .beq 0xC5#8), (16, 0xC5D0, .bne 0xC5#8),
    (16, 0xC530, .bmi 0xC5#8), (16, 0xC510, .bpl 0xC5#8), (16, 0xC550, .bvc 0xC5#8), (16, 0xC570, .bvs 0xC5#8)] = true := by decide

/-- Flags, no-operation, break, return (47_flags_system.md): words spelled from the encoding tables, operand 0xC5 or 0x12F7. -/
theorem test_decode_flags_system : spell
    [(8, 0x18, .clc), (8, 0x38, .sec), (8, 0x58, .cli), (8, 0x78, .sei), (8, 0xD8, .cld), (8, 0xF8, .sed), (8, 0xB8, .clv),
    (8, 0xEA, .nop), (8, 0x00, .brk), (8, 0x40, .rti)] = true := by decide
/-! ## The assembler notation (30_encoding.md R130; the listing of program P1 and vector A15) -/

theorem test_text_indy : (Instr.ldaIndY 0x20#8).text 0x0200#16 = "LDA ($20),Y".toList := by decide
theorem test_text_branch : (Instr.bne 0xF8#8).text 0x040E#16 = "BNE $0408".toList := by decide
theorem test_branchOffset : branchOffset 0x040E#16 0x0408#16 = some 0xF8#8 ∧ branchOffset 0x0200#16 0x0282#16 = none := by decide

/-! ## Single steps: the vectors of spec/95_test_vectors.md -/

/-- The default start of section 2 of 95_test_vectors.md: one RAM store bound everywhere, zero but for `cells`, and `ES` zero. -/
def start (a x y sp p : Byte) (pc : Word) (cells : Memory) : State :=
  { State.reset with a := a, x := x, y := y, sp := sp, p := p, pc := pc, stores := [{ size := 65536, cells := cells }] }

/-- What a vector's End column gives: registers, PC and the cycles added. -/
structure Seen where
  a : Byte
  x : Byte
  y : Byte
  sp : Byte
  p : Byte
  pc : Word
  cycles : Nat
deriving DecidableEq

/-- The next state, if there is one. -/
def nextOf (r : Result State) : Option State :=
  match r with
  | .next t => some t
  | _ => none

/-- One step answers a state with these registers, cycles and bytes, its memory in canonical form. -/
def runs (s : State) (want : Seen) (bytes : List (Word × Byte)) : Bool :=
  match nextOf (step s) with
  | some t =>
    decide (⟨t.a, t.x, t.y, t.sp, t.p, t.pc, t.es.cycles⟩ = want) && bytes.all (fun c => t.peek c.1 == some c.2) && decide t.memoryWf
  | none => false

/-- The latches after one step. -/
def latches (s : State) : Option (Bool × Bool) := (nextOf (step s)).map fun t => (t.irq, t.nmi)

/-! ### Load, store and transfer (41_load_store_transfer.md) -/

/-- Vector A3 of spec/95_test_vectors.md: zpx wraps to 0x0020, not 0x0120. -/
theorem test_ldaZpX_A3 : runs (start 0x00#8 0x60#8 0x00#8 0xFF#8 0x00#8 0x0200#16
      [(0x0020, 0x81#8), (0x0120, 0x11#8), (0x0200, 0xB5#8), (0x0201, 0xC0#8)])
    ⟨0x81#8, 0x60#8, 0x00#8, 0xFF#8, 0x80#8, 0x0202#16, 4⟩ [] = true := by decide

/-- Vector A4 of spec/95_test_vectors.md: zpy wraps to 0x0010. -/
theorem test_ldxZpY_A4 : runs (start 0x00#8 0x00#8 0x20#8 0xFF#8 0x00#8 0x0200#16
      [(0x0010, 0x42#8), (0x0110, 0x11#8), (0x0200, 0xB6#8), (0x0201, 0xF0#8)])
    ⟨0x00#8, 0x42#8, 0x20#8, 0xFF#8, 0x00#8, 0x0202#16, 4⟩ [] = true := by decide

/-- Vector A7 of spec/95_test_vectors.md: absx, page cross: 5 cycles. -/
theorem test_ldaAbsX_A7 : runs (start 0x00#8 0x10#8 0x00#8 0xFF#8 0x00#8 0x0200#16
      [(0x0200, 0xBD#8), (0x0201, 0xF0#8), (0x0202, 0x12#8), (0x1300, 0x02#8)])
    ⟨0x02#8, 0x10#8, 0x00#8, 0xFF#8, 0x00#8, 0x0203#16, 5⟩ [] = true := by decide

/-- Vector A8 of spec/95_test_vectors.md: absx wraps past 0xFFFF to 0x0001; counts as a page cross. -/
theorem test_ldaAbsX_A8 : runs (start 0x00#8 0x02#8 0x00#8 0xFF#8 0x00#8 0x0200#16
      [(0x0001, 0x03#8), (0x0200, 0xBD#8), (0x0201, 0xFF#8), (0x0202, 0xFF#8)])
    ⟨0x03#8, 0x02#8, 0x00#8, 0xFF#8, 0x00#8, 0x0203#16, 5⟩ [] = true := by decide

/-- Vector A9 of spec/95_test_vectors.md: absy, page cross. -/
theorem test_ldaAbsY_A9 : runs (start 0x00#8 0x00#8 0x20#8 0xFF#8 0x00#8 0x0200#16
      [(0x0200, 0xB9#8), (0x0201, 0xF0#8), (0x0202, 0x12#8), (0x1310, 0x04#8)])
    ⟨0x04#8, 0x00#8, 0x20#8, 0xFF#8, 0x00#8, 0x0203#16, 5⟩ [] = true := by decide

/-- Vector A10 of spec/95_test_vectors.md: LDX absy takes the penalty. -/
theorem test_ldxAbsY_A10 : runs (start 0x00#8 0x00#8 0x20#8 0xFF#8 0x00#8 0x0200#16
      [(0x0200, 0xBE#8), (0x0201, 0xF0#8), (0x0202, 0x12#8), (0x1310, 0x05#8)])
    ⟨0x00#8, 0x05#8, 0x20#8, 0xFF#8, 0x00#8, 0x0203#16, 5⟩ [] = true := by decide

/-- Vector A12 of spec/95_test_vectors.md: indx: pointer high byte from 0x0000, not 0x0100. -/
theorem test_ldaIndX_A12 : runs (start 0x00#8 0x00#8 0x00#8 0xFF#8 0x00#8 0x0200#16
      [(0x0000, 0x30#8), (0x0100, 0x40#8), (0x0200, 0xA1#8), (0x0201, 0xFF#8), (0x3000, 0xAC#8), (0x4000, 0x11#8)])
    ⟨0xAC#8, 0x00#8, 0x00#8, 0xFF#8, 0x80#8, 0x0202#16, 6⟩ [] = true := by decide

/-- Vector A14 of spec/95_test_vectors.md: indx: B1+X wraps to 0x10. -/
theorem test_ldaIndX_A14 : runs (start 0x00#8 0x20#8 0x00#8 0xFF#8 0x00#8 0x0200#16
      [(0x0011, 0x31#8), (0x0200, 0xA1#8), (0x0201, 0xF0#8), (0x3100, 0xAE#8)])
    ⟨0xAE#8, 0x20#8, 0x00#8, 0xFF#8, 0x80#8, 0x0202#16, 6⟩ [] = true := by decide

/-- Vector A15 of spec/95_test_vectors.md: indy, base 0x30F8 + 0x10 crosses: 6 cycles. -/
theorem test_ldaIndY_A15 : runs (start 0x00#8 0x00#8 0x10#8 0xFF#8 0x00#8 0x0200#16
      [(0x0020, 0xF8#8), (0x0021, 0x30#8), (0x0200, 0xB1#8), (0x0201, 0x20#8), (0x3108, 0xBA#8)])
    ⟨0xBA#8, 0x00#8, 0x10#8, 0xFF#8, 0x80#8, 0x0202#16, 6⟩ [] = true := by decide

/-- Vector A17 of spec/95_test_vectors.md: indy: pointer high byte from 0x0000. -/
theorem test_ldaIndY_A17 : runs (start 0x00#8 0x00#8 0x01#8 0xFF#8 0x00#8 0x0200#16
      [(0x0000, 0x30#8), (0x0100, 0x40#8), (0x0200, 0xB1#8), (0x0201, 0xFF#8), (0x3001, 0xBC#8)])
    ⟨0xBC#8, 0x00#8, 0x01#8, 0xFF#8, 0x80#8, 0x0202#16, 5⟩ [] = true := by decide

/-- Vector A18 of spec/95_test_vectors.md: store absx: 5 cycles with or without cross. -/
theorem test_staAbsX_A18 : runs (start 0x77#8 0x10#8 0x00#8 0xFF#8 0x00#8 0x0200#16
      [(0x0200, 0x9D#8), (0x0201, 0xF0#8), (0x0202, 0x12#8)])
    ⟨0x77#8, 0x10#8, 0x00#8, 0xFF#8, 0x00#8, 0x0203#16, 5⟩ [(0x1300#16, 0x77#8)] = true := by decide

/-- Vector A19 of spec/95_test_vectors.md: store indy: 6 cycles always. -/
theorem test_staIndY_A19 : runs (start 0x78#8 0x00#8 0x10#8 0xFF#8 0x00#8 0x0200#16
      [(0x0020, 0xF8#8), (0x0021, 0x30#8), (0x0200, 0x91#8), (0x0201, 0x20#8)])
    ⟨0x78#8, 0x00#8, 0x10#8, 0xFF#8, 0x00#8, 0x0202#16, 6⟩ [(0x3108#16, 0x78#8)] = true := by decide

/-- Vector A22 of spec/95_test_vectors.md: instruction wraps the end of the address space. -/
theorem test_ldaImm_A22 : runs (start 0x00#8 0x00#8 0x00#8 0xFF#8 0x00#8 0xFFFF#16
      [(0x0000, 0x5A#8), (0xFFFF, 0xA9#8)])
    ⟨0x5A#8, 0x00#8, 0x00#8, 0xFF#8, 0x00#8, 0x0001#16, 2⟩ [] = true := by decide

/-- Vector A23 of spec/95_test_vectors.md: operand high byte fetched from 0x0000. -/
theorem test_ldaAbs_A23 : runs (start 0x00#8 0x00#8 0x00#8 0xFF#8 0x00#8 0xFFFE#16
      [(0x0000, 0x20#8), (0x2010, 0x80#8), (0xFFFE, 0xAD#8), (0xFFFF, 0x10#8)])
    ⟨0x80#8, 0x00#8, 0x00#8, 0xFF#8, 0x80#8, 0x0001#16, 4⟩ [] = true := by decide

/-- Vector B2 of spec/95_test_vectors.md: Z set, N cleared; C and V kept. -/
theorem test_ldaImm_B2 : runs (start 0xFF#8 0x00#8 0x00#8 0xFF#8 0xC1#8 0x0200#16
      [(0x0200, 0xA9#8)])
    ⟨0x00#8, 0x00#8, 0x00#8, 0xFF#8, 0x43#8, 0x0202#16, 2⟩ [] = true := by decide

/-- Vector B3 of spec/95_test_vectors.md: N, Z cleared. -/
theorem test_ldxImm_B3 : runs (start 0x00#8 0x00#8 0x00#8 0xFF#8 0x82#8 0x0200#16
      [(0x0200, 0xA2#8), (0x0201, 0x7F#8)])
    ⟨0x00#8, 0x7F#8, 0x00#8, 0xFF#8, 0x00#8, 0x0202#16, 2⟩ [] = true := by decide

/-- Vector B4 of spec/95_test_vectors.md. -/
theorem test_ldyZp_B4 : runs (start 0x00#8 0x00#8 0x00#8 0xFF#8 0x00#8 0x0200#16
      [(0x0030, 0xFF#8), (0x0200, 0xA4#8), (0x0201, 0x30#8)])
    ⟨0x00#8, 0x00#8, 0xFF#8, 0xFF#8, 0x80#8, 0x0202#16, 3⟩ [] = true := by decide

/-- Vector B5 of spec/95_test_vectors.md. -/
theorem test_ldyZpX_B5 : runs (start 0x00#8 0x01#8 0x00#8 0xFF#8 0x00#8 0x0200#16
      [(0x0200, 0xB4#8), (0x0201, 0x30#8)])
    ⟨0x00#8, 0x01#8, 0x00#8, 0xFF#8, 0x02#8, 0x0202#16, 4⟩ [] = true := by decide

/-- Vector B6 of spec/95_test_vectors.md: stores set no flag, even storing 0. -/
theorem test_staZp_B6 : runs (start 0x00#8 0x00#8 0x00#8 0xFF#8 0x80#8 0x0200#16
      [(0x0200, 0x85#8), (0x0201, 0x40#8)])
    ⟨0x00#8, 0x00#8, 0x00#8, 0xFF#8, 0x80#8, 0x0202#16, 3⟩ [(0x0040#16, 0x00#8)] = true := by decide

/-- Vector B7 of spec/95_test_vectors.md: zpy wraps to 0x0000. -/
theorem test_stxZpY_B7 : runs (start 0x00#8 0x12#8 0xC0#8 0xFF#8 0x00#8 0x0200#16
      [(0x0200, 0x96#8), (0x0201, 0x40#8)])
    ⟨0x00#8, 0x12#8, 0xC0#8, 0xFF#8, 0x00#8, 0x0202#16, 4⟩ [(0x0000#16, 0x12#8)] = true := by decide

/-- Vector B8 of spec/95_test_vectors.md. -/
theorem test_styAbs_B8 : runs (start 0x00#8 0x00#8 0x34#8 0xFF#8 0x00#8 0x0200#16
      [(0x0200, 0x8C#8), (0x0201, 0x34#8), (0x0202, 0x12#8)])
    ⟨0x00#8, 0x00#8, 0x34#8, 0xFF#8, 0x00#8, 0x0203#16, 4⟩ [(0x1234#16, 0x34#8)] = true := by decide

/-- Vector B9 of spec/95_test_vectors.md. -/
theorem test_staIndX_B9 : runs (start 0x9A#8 0x00#8 0x00#8 0xFF#8 0x00#8 0x0200#16
      [(0x0021, 0x50#8), (0x0200, 0x81#8), (0x0201, 0x20#8)])
    ⟨0x9A#8, 0x00#8, 0x00#8, 0xFF#8, 0x00#8, 0x0202#16, 6⟩ [(0x5000#16, 0x9A#8)] = true := by decide

/-- Vector B10 of spec/95_test_vectors.md: Z set. -/
theorem test_tax_B10 : runs (start 0x00#8 0x55#8 0x00#8 0xFF#8 0x00#8 0x0200#16
      [(0x0200, 0xAA#8)])
    ⟨0x00#8, 0x00#8, 0x00#8, 0xFF#8, 0x02#8, 0x0201#16, 2⟩ [] = true := by decide

/-- Vector B11 of spec/95_test_vectors.md: N set. -/
theorem test_tay_B11 : runs (start 0x80#8 0x00#8 0x00#8 0xFF#8 0x00#8 0x0200#16
      [(0x0200, 0xA8#8)])
    ⟨0x80#8, 0x00#8, 0x80#8, 0xFF#8, 0x80#8, 0x0201#16, 2⟩ [] = true := by decide

/-- Vector B12 of spec/95_test_vectors.md. -/
theorem test_txa_B12 : runs (start 0xFF#8 0x01#8 0x00#8 0xFF#8 0x80#8 0x0200#16
      [(0x0200, 0x8A#8)])
    ⟨0x01#8, 0x01#8, 0x00#8, 0xFF#8, 0x00#8, 0x0201#16, 2⟩ [] = true := by decide

/-- Vector B13 of spec/95_test_vectors.md. -/
theorem test_tya_B13 : runs (start 0x01#8 0x00#8 0x00#8 0xFF#8 0x00#8 0x0200#16
      [(0x0200, 0x98#8)])
    ⟨0x00#8, 0x00#8, 0x00#8, 0xFF#8, 0x02#8, 0x0201#16, 2⟩ [] = true := by decide

/-- Vector B14 of spec/95_test_vectors.md: TSX sets N, Z. -/
theorem test_tsx_B14 : runs (start 0x00#8 0x00#8 0x00#8 0x80#8 0x00#8 0x0200#16
      [(0x0200, 0xBA#8)])
    ⟨0x00#8, 0x80#8, 0x00#8, 0x80#8, 0x80#8, 0x0201#16, 2⟩ [] = true := by decide

/-- Vector B15 of spec/95_test_vectors.md: TXS sets no flag (Z stays 0 though 0 was moved). -/
theorem test_txs_B15 : runs (start 0x00#8 0x00#8 0x00#8 0xFF#8 0x80#8 0x0200#16
      [(0x0200, 0x9A#8)])
    ⟨0x00#8, 0x00#8, 0x00#8, 0x00#8, 0x80#8, 0x0201#16, 2⟩ [] = true := by decide

/-! ### Stack (42_stack.md) -/

/-- Vector C1 of spec/95_test_vectors.md. -/
theorem test_pha_C1 : runs (start 0x42#8 0x00#8 0x00#8 0xFF#8 0x00#8 0x0200#16
      [(0x0200, 0x48#8)])
    ⟨0x42#8, 0x00#8, 0x00#8, 0xFE#8, 0x00#8, 0x0201#16, 3⟩ [(0x01FF#16, 0x42#8)] = true := by decide

/-- Vector C2 of spec/95_test_vectors.md: SP wraps 0x00 to 0xFF; write at 0x0100. -/
theorem test_pha_C2 : runs (start 0x43#8 0x00#8 0x00#8 0x00#8 0x00#8 0x0200#16
      [(0x0200, 0x48#8)])
    ⟨0x43#8, 0x00#8, 0x00#8, 0xFF#8, 0x00#8, 0x0201#16, 3⟩ [(0x0100#16, 0x43#8)] = true := by decide

/-- Vector C3 of spec/95_test_vectors.md: SP wraps 0xFF to 0x00; read at 0x0100; Z set. -/
theorem test_pla_C3 : runs (start 0x11#8 0x00#8 0x00#8 0xFF#8 0x00#8 0x0200#16
      [(0x0200, 0x68#8)])
    ⟨0x00#8, 0x00#8, 0x00#8, 0x00#8, 0x02#8, 0x0201#16, 4⟩ [] = true := by decide

/-- Vector C4 of spec/95_test_vectors.md: N set. -/
theorem test_pla_C4 : runs (start 0x00#8 0x00#8 0x00#8 0xFC#8 0x00#8 0x0200#16
      [(0x01FD, 0x80#8), (0x0200, 0x68#8)])
    ⟨0x80#8, 0x00#8, 0x00#8, 0xFD#8, 0x80#8, 0x0201#16, 4⟩ [] = true := by decide

/-- Vector C5 of spec/95_test_vectors.md: pushed copy has bits 4, 5 set; live P unchanged. -/
theorem test_php_C5 : runs (start 0x00#8 0x00#8 0x00#8 0xFF#8 0x00#8 0x0200#16
      [(0x0200, 0x08#8)])
    ⟨0x00#8, 0x00#8, 0x00#8, 0xFE#8, 0x00#8, 0x0201#16, 3⟩ [(0x01FF#16, 0x30#8)] = true := by decide

/-- Vector C6 of spec/95_test_vectors.md. -/
theorem test_php_C6 : runs (start 0x00#8 0x00#8 0x00#8 0xFF#8 0xCF#8 0x0200#16
      [(0x0200, 0x08#8)])
    ⟨0x00#8, 0x00#8, 0x00#8, 0xFE#8, 0xCF#8, 0x0201#16, 3⟩ [(0x01FF#16, 0xFF#8)] = true := by decide

/-- Vector C7 of spec/95_test_vectors.md: bits 4, 5 of the pulled byte ignored: live stays 0. -/
theorem test_plp_C7 : runs (start 0x00#8 0x00#8 0x00#8 0xFE#8 0x00#8 0x0200#16
      [(0x01FF, 0xFF#8), (0x0200, 0x28#8)])
    ⟨0x00#8, 0x00#8, 0x00#8, 0xFF#8, 0xCF#8, 0x0201#16, 4⟩ [] = true := by decide

/-- Vector C9 of spec/95_test_vectors.md: PLP clears I, the poll of the same step takes the pending IRQ (vector word 0x0000 here): 4 + 7
cycles. -/
theorem test_plp_C9 : runs ({ start 0x00#8 0x00#8 0x00#8 0xFE#8 0x24#8 0x0200#16
      [(0x01FF, 0x30#8), (0x0200, 0x28#8)] with irq := true, nmi := false })
    ⟨0x00#8, 0x00#8, 0x00#8, 0xFC#8, 0x24#8, 0x0000#16, 11⟩ [(0x01FF#16, 0x02#8), (0x01FE#16, 0x01#8), (0x01FD#16, 0x20#8)] = true ∧
    latches ({ start 0x00#8 0x00#8 0x00#8 0xFE#8 0x24#8 0x0200#16 [(0x01FF, 0x30#8), (0x0200, 0x28#8)] with irq := true, nmi := false }) = some (false, false) := by decide

/-! ### Logic and bit test (43_logic_bit.md) -/

/-- Vector D2 of spec/95_test_vectors.md: N set. -/
theorem test_andImm_D2 : runs (start 0x9C#8 0x00#8 0x00#8 0xFF#8 0x00#8 0x0200#16
      [(0x0200, 0x29#8), (0x0201, 0xF0#8)])
    ⟨0x90#8, 0x00#8, 0x00#8, 0xFF#8, 0x80#8, 0x0202#16, 2⟩ [] = true := by decide

/-- Vector D4 of spec/95_test_vectors.md. -/
theorem test_oraZp_D4 : runs (start 0x01#8 0x00#8 0x00#8 0xFF#8 0x00#8 0x0200#16
      [(0x0010, 0x80#8), (0x0200, 0x05#8), (0x0201, 0x10#8)])
    ⟨0x81#8, 0x00#8, 0x00#8, 0xFF#8, 0x80#8, 0x0202#16, 3⟩ [] = true := by decide

/-- Vector D6 of spec/95_test_vectors.md: C and V untouched. -/
theorem test_eorImm_D6 : runs (start 0x0F#8 0x00#8 0x00#8 0xFF#8 0x41#8 0x0200#16
      [(0x0200, 0x49#8), (0x0201, 0xFF#8)])
    ⟨0xF0#8, 0x00#8, 0x00#8, 0xFF#8, 0xC1#8, 0x0202#16, 2⟩ [] = true := by decide

/-- Vector D7 of spec/95_test_vectors.md: A & M = 0: Z; N, V from M bits 7, 6; A unchanged. -/
theorem test_bitZp_D7 : runs (start 0x01#8 0x00#8 0x00#8 0xFF#8 0x00#8 0x0200#16
      [(0x0010, 0xC0#8), (0x0200, 0x24#8), (0x0201, 0x10#8)])
    ⟨0x01#8, 0x00#8, 0x00#8, 0xFF#8, 0xC2#8, 0x0202#16, 3⟩ [] = true := by decide

/-- Vector D8 of spec/95_test_vectors.md: N, V, Z all cleared. -/
theorem test_bitZp_D8 : runs (start 0xFF#8 0x00#8 0x00#8 0xFF#8 0xC2#8 0x0200#16
      [(0x0010, 0x01#8), (0x0200, 0x24#8), (0x0201, 0x10#8)])
    ⟨0xFF#8, 0x00#8, 0x00#8, 0xFF#8, 0x00#8, 0x0202#16, 3⟩ [] = true := by decide

/-- Vector D9 of spec/95_test_vectors.md: V only. -/
theorem test_bitAbs_D9 : runs (start 0x40#8 0x00#8 0x00#8 0xFF#8 0x00#8 0x0200#16
      [(0x0200, 0x2C#8), (0x0202, 0x40#8), (0x4000, 0x40#8)])
    ⟨0x40#8, 0x00#8, 0x00#8, 0xFF#8, 0x40#8, 0x0203#16, 4⟩ [] = true := by decide

/-- Vector D10 of spec/95_test_vectors.md: N and Z together. -/
theorem test_bitAbs_D10 : runs (start 0x00#8 0x00#8 0x00#8 0xFF#8 0x00#8 0x0200#16
      [(0x0200, 0x2C#8), (0x0202, 0x40#8), (0x4000, 0x80#8)])
    ⟨0x00#8, 0x00#8, 0x00#8, 0xFF#8, 0x82#8, 0x0203#16, 4⟩ [] = true := by decide

/-! ### Arithmetic and compare (44_arithmetic_compare.md) -/

/-- Vector E7 of spec/95_test_vectors.md: -128 + -1: V. -/
theorem test_adcImm_E7 : runs (start 0x80#8 0x00#8 0x00#8 0xFF#8 0x00#8 0x0200#16
      [(0x0200, 0x69#8), (0x0201, 0xFF#8)])
    ⟨0x7F#8, 0x00#8, 0x00#8, 0xFF#8, 0x41#8, 0x0202#16, 2⟩ [] = true := by decide

/-- Vector E21 of spec/95_test_vectors.md: 99 + 1 = 100: A=0, C=1, but Z=0 (binary sum 0x9A) and N=1. -/
theorem test_adcImm_E21 : runs (start 0x99#8 0x00#8 0x00#8 0xFF#8 0x08#8 0x0200#16
      [(0x0200, 0x69#8), (0x0201, 0x01#8)])
    ⟨0x00#8, 0x00#8, 0x00#8, 0xFF#8, 0x89#8, 0x0202#16, 2⟩ [] = true := by decide

/-- Vector E14 of spec/95_test_vectors.md: V and borrow. -/
theorem test_sbcImm_E14 : runs (start 0x50#8 0x00#8 0x00#8 0xFF#8 0x01#8 0x0200#16
      [(0x0200, 0xE9#8), (0x0201, 0xB0#8)])
    ⟨0xA0#8, 0x00#8, 0x00#8, 0xFF#8, 0xC0#8, 0x0202#16, 2⟩ [] = true := by decide

/-- Vector E32 of spec/95_test_vectors.md: 12 - 21 = 91 - 100: C=0; N from binary 0xF1. -/
theorem test_sbcImm_E32 : runs (start 0x12#8 0x00#8 0x00#8 0xFF#8 0x09#8 0x0200#16
      [(0x0200, 0xE9#8), (0x0201, 0x21#8)])
    ⟨0x91#8, 0x00#8, 0x00#8, 0xFF#8, 0x88#8, 0x0202#16, 2⟩ [] = true := by decide

/-- Vector E39 of spec/95_test_vectors.md: less: C=0; N from 0xFF; D and V kept. -/
theorem test_cmpImm_E39 : runs (start 0x0F#8 0x00#8 0x00#8 0xFF#8 0x48#8 0x0200#16
      [(0x0200, 0xC9#8), (0x0201, 0x10#8)])
    ⟨0x0F#8, 0x00#8, 0x00#8, 0xFF#8, 0xC8#8, 0x0202#16, 2⟩ [] = true := by decide

/-- Vector E44 of spec/95_test_vectors.md: less; difference 0x01, N=0; D and V kept. -/
theorem test_cmpImm_E44 : runs (start 0x00#8 0x00#8 0x00#8 0xFF#8 0x48#8 0x0200#16
      [(0x0200, 0xC9#8), (0x0201, 0xFF#8)])
    ⟨0x00#8, 0x00#8, 0x00#8, 0xFF#8, 0x48#8, 0x0202#16, 2⟩ [] = true := by decide

/-- Vector E45 of spec/95_test_vectors.md. -/
theorem test_cpxImm_E45 : runs (start 0x00#8 0x00#8 0x00#8 0xFF#8 0x00#8 0x0200#16
      [(0x0200, 0xE0#8)])
    ⟨0x00#8, 0x00#8, 0x00#8, 0xFF#8, 0x03#8, 0x0202#16, 2⟩ [] = true := by decide

/-- Vector E46 of spec/95_test_vectors.md. -/
theorem test_cpxZp_E46 : runs (start 0x00#8 0x7F#8 0x00#8 0xFF#8 0x00#8 0x0200#16
      [(0x0020, 0x80#8), (0x0200, 0xE4#8), (0x0201, 0x20#8)])
    ⟨0x00#8, 0x7F#8, 0x00#8, 0xFF#8, 0x80#8, 0x0202#16, 3⟩ [] = true := by decide

/-- Vector E47 of spec/95_test_vectors.md. -/
theorem test_cpyZp_E47 : runs (start 0x00#8 0x00#8 0x05#8 0xFF#8 0x00#8 0x0200#16
      [(0x0020, 0x03#8), (0x0200, 0xC4#8), (0x0201, 0x20#8)])
    ⟨0x00#8, 0x00#8, 0x05#8, 0xFF#8, 0x01#8, 0x0202#16, 3⟩ [] = true := by decide

/-- Vector E48 of spec/95_test_vectors.md. -/
theorem test_cpyAbs_E48 : runs (start 0x00#8 0x00#8 0xFF#8 0xFF#8 0x00#8 0x0200#16
      [(0x0200, 0xCC#8), (0x0201, 0x34#8), (0x0202, 0x12#8), (0x1234, 0xFF#8)])
    ⟨0x00#8, 0x00#8, 0xFF#8, 0xFF#8, 0x03#8, 0x0203#16, 4⟩ [] = true := by decide

/-- Vector E49 of spec/95_test_vectors.md: page cross: 5 cycles. -/
theorem test_adcAbsX_E49 : runs (start 0x01#8 0x10#8 0x00#8 0xFF#8 0x00#8 0x0200#16
      [(0x0200, 0x7D#8), (0x0201, 0xF0#8), (0x0202, 0x12#8), (0x1300, 0x02#8)])
    ⟨0x03#8, 0x10#8, 0x00#8, 0xFF#8, 0x00#8, 0x0203#16, 5⟩ [] = true := by decide

/-- Vector E50 of spec/95_test_vectors.md: page cross: 6 cycles. -/
theorem test_sbcIndY_E50 : runs (start 0x09#8 0x00#8 0xFF#8 0xFF#8 0x01#8 0x0200#16
      [(0x0020, 0x01#8), (0x0021, 0x30#8), (0x0200, 0xF1#8), (0x0201, 0x20#8), (0x3100, 0x04#8)])
    ⟨0x05#8, 0x00#8, 0xFF#8, 0xFF#8, 0x01#8, 0x0202#16, 6⟩ [] = true := by decide

/-! ### Increment, decrement, shift, rotate (45_incdec_shift.md) -/

/-- Vector F1 of spec/95_test_vectors.md: wraps to 0, Z; C, V kept. -/
theorem test_incZp_F1 : runs (start 0x00#8 0x00#8 0x00#8 0xFF#8 0x41#8 0x0200#16
      [(0x0010, 0xFF#8), (0x0200, 0xE6#8), (0x0201, 0x10#8)])
    ⟨0x00#8, 0x00#8, 0x00#8, 0xFF#8, 0x43#8, 0x0202#16, 5⟩ [(0x0010#16, 0x00#8)] = true := by decide

/-- Vector F3 of spec/95_test_vectors.md: 7 cycles, no page-cross penalty. -/
theorem test_incAbsX_F3 : runs (start 0x00#8 0x10#8 0x00#8 0xFF#8 0x00#8 0x0200#16
      [(0x0200, 0xFE#8), (0x0201, 0xF0#8), (0x0202, 0x12#8), (0x1300, 0x01#8)])
    ⟨0x00#8, 0x10#8, 0x00#8, 0xFF#8, 0x00#8, 0x0203#16, 7⟩ [(0x1300#16, 0x02#8)] = true := by decide

/-- Vector F4 of spec/95_test_vectors.md: wraps to 0xFF. -/
theorem test_decZp_F4 : runs (start 0x00#8 0x00#8 0x00#8 0xFF#8 0x00#8 0x0200#16
      [(0x0200, 0xC6#8), (0x0201, 0x10#8)])
    ⟨0x00#8, 0x00#8, 0x00#8, 0xFF#8, 0x80#8, 0x0202#16, 5⟩ [(0x0010#16, 0xFF#8)] = true := by decide

/-- Vector F5 of spec/95_test_vectors.md: zpx wrap; Z. -/
theorem test_decZpX_F5 : runs (start 0x00#8 0xF5#8 0x00#8 0xFF#8 0x00#8 0x0200#16
      [(0x0005, 0x01#8), (0x0200, 0xD6#8), (0x0201, 0x10#8)])
    ⟨0x00#8, 0xF5#8, 0x00#8, 0xFF#8, 0x02#8, 0x0202#16, 6⟩ [(0x0005#16, 0x00#8)] = true := by decide

/-- Vector F6 of spec/95_test_vectors.md. -/
theorem test_decAbs_F6 : runs (start 0x00#8 0x00#8 0x00#8 0xFF#8 0x00#8 0x0200#16
      [(0x0200, 0xCE#8), (0x0202, 0x30#8), (0x3000, 0x80#8)])
    ⟨0x00#8, 0x00#8, 0x00#8, 0xFF#8, 0x00#8, 0x0203#16, 6⟩ [(0x3000#16, 0x7F#8)] = true := by decide

/-- Vector F7 of spec/95_test_vectors.md. -/
theorem test_inx_F7 : runs (start 0x00#8 0xFF#8 0x00#8 0xFF#8 0x00#8 0x0200#16
      [(0x0200, 0xE8#8)])
    ⟨0x00#8, 0x00#8, 0x00#8, 0xFF#8, 0x02#8, 0x0201#16, 2⟩ [] = true := by decide

/-- Vector F9 of spec/95_test_vectors.md. -/
theorem test_iny_F9 : runs (start 0x00#8 0x00#8 0xFF#8 0xFF#8 0x00#8 0x0200#16
      [(0x0200, 0xC8#8)])
    ⟨0x00#8, 0x00#8, 0x00#8, 0xFF#8, 0x02#8, 0x0201#16, 2⟩ [] = true := by decide

/-- Vector F10 of spec/95_test_vectors.md. -/
theorem test_dex_F10 : runs (start 0x00#8 0x00#8 0x00#8 0xFF#8 0x00#8 0x0200#16
      [(0x0200, 0xCA#8)])
    ⟨0x00#8, 0xFF#8, 0x00#8, 0xFF#8, 0x80#8, 0x0201#16, 2⟩ [] = true := by decide

/-- Vector F12 of spec/95_test_vectors.md. -/
theorem test_dey_F12 : runs (start 0x00#8 0x00#8 0x00#8 0xFF#8 0x00#8 0x0200#16
      [(0x0200, 0x88#8)])
    ⟨0x00#8, 0x00#8, 0xFF#8, 0xFF#8, 0x80#8, 0x0201#16, 2⟩ [] = true := by decide

/-- Vector F13 of spec/95_test_vectors.md. -/
theorem test_aslAcc_F13 : runs (start 0x81#8 0x00#8 0x00#8 0xFF#8 0x00#8 0x0200#16
      [(0x0200, 0x0A#8)])
    ⟨0x02#8, 0x00#8, 0x00#8, 0xFF#8, 0x01#8, 0x0201#16, 2⟩ [] = true := by decide

/-- Vector F15 of spec/95_test_vectors.md. -/
theorem test_aslZp_F15 : runs (start 0x00#8 0x00#8 0x00#8 0xFF#8 0x00#8 0x0200#16
      [(0x0010, 0x40#8), (0x0200, 0x06#8), (0x0201, 0x10#8)])
    ⟨0x00#8, 0x00#8, 0x00#8, 0xFF#8, 0x80#8, 0x0202#16, 5⟩ [(0x0010#16, 0x80#8)] = true := by decide

/-- Vector F16 of spec/95_test_vectors.md: C, Z; N always cleared. -/
theorem test_lsrAcc_F16 : runs (start 0x01#8 0x00#8 0x00#8 0xFF#8 0x80#8 0x0200#16
      [(0x0200, 0x4A#8)])
    ⟨0x00#8, 0x00#8, 0x00#8, 0xFF#8, 0x03#8, 0x0201#16, 2⟩ [] = true := by decide

/-- Vector F17 of spec/95_test_vectors.md. -/
theorem test_lsrZpX_F17 : runs (start 0x00#8 0x01#8 0x00#8 0xFF#8 0x00#8 0x0200#16
      [(0x0011, 0xFE#8), (0x0200, 0x56#8), (0x0201, 0x10#8)])
    ⟨0x00#8, 0x01#8, 0x00#8, 0xFF#8, 0x00#8, 0x0202#16, 6⟩ [(0x0011#16, 0x7F#8)] = true := by decide

/-- Vector F18 of spec/95_test_vectors.md: old C into bit 0. -/
theorem test_rolAcc_F18 : runs (start 0x40#8 0x00#8 0x00#8 0xFF#8 0x01#8 0x0200#16
      [(0x0200, 0x2A#8)])
    ⟨0x81#8, 0x00#8, 0x00#8, 0xFF#8, 0x80#8, 0x0201#16, 2⟩ [] = true := by decide

/-- Vector F20 of spec/95_test_vectors.md. -/
theorem test_rolAbs_F20 : runs (start 0x00#8 0x00#8 0x00#8 0xFF#8 0x01#8 0x0200#16
      [(0x0200, 0x2E#8), (0x0202, 0x30#8), (0x3000, 0xFF#8)])
    ⟨0x00#8, 0x00#8, 0x00#8, 0xFF#8, 0x81#8, 0x0203#16, 6⟩ [(0x3000#16, 0xFF#8)] = true := by decide

/-- Vector F21 of spec/95_test_vectors.md: old C into bit 7. -/
theorem test_rorAcc_F21 : runs (start 0x01#8 0x00#8 0x00#8 0xFF#8 0x01#8 0x0200#16
      [(0x0200, 0x6A#8)])
    ⟨0x80#8, 0x00#8, 0x00#8, 0xFF#8, 0x81#8, 0x0201#16, 2⟩ [] = true := by decide

/-- Vector F23 of spec/95_test_vectors.md: 7 cycles. -/
theorem test_rorAbsX_F23 : runs (start 0x00#8 0xFF#8 0x00#8 0xFF#8 0x01#8 0x0200#16
      [(0x0200, 0x7E#8), (0x0202, 0x30#8)])
    ⟨0x00#8, 0xFF#8, 0x00#8, 0xFF#8, 0x80#8, 0x0203#16, 7⟩ [(0x30FF#16, 0x80#8)] = true := by decide

/-! ### Control transfer (46_control_transfer.md) -/

/-- Vector A20 of spec/95_test_vectors.md: ind: high byte from 0x0200 (page-wrap defect). -/
theorem test_jmpInd_A20 : runs (start 0x00#8 0x00#8 0x00#8 0xFF#8 0x00#8 0x1000#16
      [(0x0200, 0x12#8), (0x02FF, 0x34#8), (0x0300, 0x56#8), (0x1000, 0x6C#8), (0x1001, 0xFF#8), (0x1002, 0x02#8)])
    ⟨0x00#8, 0x00#8, 0x00#8, 0xFF#8, 0x00#8, 0x1234#16, 5⟩ [] = true := by decide

/-- Vector A21 of spec/95_test_vectors.md: ind, ordinary. -/
theorem test_jmpInd_A21 : runs (start 0x00#8 0x00#8 0x00#8 0xFF#8 0x00#8 0x1000#16
      [(0x0300, 0x78#8), (0x0301, 0x56#8), (0x1000, 0x6C#8), (0x1002, 0x03#8)])
    ⟨0x00#8, 0x00#8, 0x00#8, 0xFF#8, 0x00#8, 0x5678#16, 5⟩ [] = true := by decide

/-- Vector G1 of spec/95_test_vectors.md. -/
theorem test_jmpAbs_G1 : runs (start 0x00#8 0x00#8 0x00#8 0xFF#8 0x00#8 0x0200#16
      [(0x0200, 0x4C#8), (0x0201, 0x34#8), (0x0202, 0x12#8)])
    ⟨0x00#8, 0x00#8, 0x00#8, 0xFF#8, 0x00#8, 0x1234#16, 3⟩ [] = true := by decide

/-- Vector G4 of spec/95_test_vectors.md: stack wrap: high byte at 0x0100, low at 0x01FF; pushes 0x1300. -/
theorem test_jsr_G4 : runs (start 0x00#8 0x00#8 0x00#8 0x00#8 0x00#8 0x12FE#16
      [(0x12FE, 0x20#8), (0x1300, 0x30#8)])
    ⟨0x00#8, 0x00#8, 0x00#8, 0xFE#8, 0x00#8, 0x3000#16, 6⟩ [(0x0100#16, 0x13#8), (0x01FF#16, 0x00#8)] = true := by decide

/-- Vector G5 of spec/95_test_vectors.md: return address wraps: pushes 0x0000 (third byte is at 0x0000). -/
theorem test_jsr_G5 : runs (start 0x00#8 0x00#8 0x00#8 0xFF#8 0x00#8 0xFFFE#16
      [(0xFFFE, 0x20#8)])
    ⟨0x00#8, 0x00#8, 0x00#8, 0xFD#8, 0x00#8, 0x0000#16, 6⟩ [(0x01FF#16, 0x00#8), (0x01FE#16, 0x00#8)] = true := by decide

/-- Vector G7 of spec/95_test_vectors.md: 0xFFFF + 1 wraps to 0x0000. -/
theorem test_rts_G7 : runs (start 0x00#8 0x00#8 0x00#8 0xFD#8 0x00#8 0x0200#16
      [(0x01FE, 0xFF#8), (0x01FF, 0xFF#8), (0x0200, 0x60#8)])
    ⟨0x00#8, 0x00#8, 0x00#8, 0xFF#8, 0x00#8, 0x0000#16, 6⟩ [] = true := by decide

/-- Vector G8 of spec/95_test_vectors.md: SP wraps: reads 0x0100 then 0x0101. -/
theorem test_rts_G8 : runs (start 0x00#8 0x00#8 0x00#8 0xFF#8 0x00#8 0x0200#16
      [(0x0100, 0x33#8), (0x0101, 0x44#8), (0x0200, 0x60#8)])
    ⟨0x00#8, 0x00#8, 0x00#8, 0x01#8, 0x00#8, 0x4434#16, 6⟩ [] = true := by decide

/-- Vector G30 of spec/95_test_vectors.md: next = 0x0000, target 0x0002: wrap, same page as next: 3 cycles. -/
theorem test_bcc_G30 : runs (start 0x00#8 0x00#8 0x00#8 0xFF#8 0x00#8 0xFFFE#16
      [(0xFFFE, 0x90#8), (0xFFFF, 0x02#8)])
    ⟨0x00#8, 0x00#8, 0x00#8, 0xFF#8, 0x00#8, 0x0002#16, 3⟩ [] = true := by decide

/-- Vector G31 of spec/95_test_vectors.md: target 0xFF82: wrap, page cross. -/
theorem test_bcc_G31 : runs (start 0x00#8 0x00#8 0x00#8 0xFF#8 0x00#8 0x0000#16
      [(0x0000, 0x90#8), (0x0001, 0x80#8)])
    ⟨0x00#8, 0x00#8, 0x00#8, 0xFF#8, 0x00#8, 0xFF82#16, 4⟩ [] = true := by decide

/-- Vector G11 of spec/95_test_vectors.md: flag clear. -/
theorem test_bcs_G11 : runs (start 0x00#8 0x00#8 0x00#8 0xFF#8 0x00#8 0x0200#16
      [(0x0200, 0xB0#8), (0x0201, 0x04#8)])
    ⟨0x00#8, 0x00#8, 0x00#8, 0xFF#8, 0x00#8, 0x0202#16, 2⟩ [] = true := by decide

/-- Vector G12 of spec/95_test_vectors.md: flag set. -/
theorem test_bcs_G12 : runs (start 0x00#8 0x00#8 0x00#8 0xFF#8 0x01#8 0x0200#16
      [(0x0200, 0xB0#8), (0x0201, 0x04#8)])
    ⟨0x00#8, 0x00#8, 0x00#8, 0xFF#8, 0x01#8, 0x0206#16, 3⟩ [] = true := by decide

/-- Vector G26 of spec/95_test_vectors.md: taken across a page: 4 cycles (next 0x02F2, target 0x0302). -/
theorem test_beq_G26 : runs (start 0x00#8 0x00#8 0x00#8 0xFF#8 0x02#8 0x02F0#16
      [(0x02F0, 0xF0#8), (0x02F1, 0x10#8)])
    ⟨0x00#8, 0x00#8, 0x00#8, 0xFF#8, 0x02#8, 0x0302#16, 4⟩ [] = true := by decide

/-- Vector G27 of spec/95_test_vectors.md: taken, target 0x02FE same page as next: 3 cycles. -/
theorem test_beq_G27 : runs (start 0x00#8 0x00#8 0x00#8 0xFF#8 0x02#8 0x02F0#16
      [(0x02F0, 0xF0#8), (0x02F1, 0x0C#8)])
    ⟨0x00#8, 0x00#8, 0x00#8, 0xFF#8, 0x02#8, 0x02FE#16, 3⟩ [] = true := by decide

/-- Vector G16 of spec/95_test_vectors.md: flag set. -/
theorem test_bne_G16 : runs (start 0x00#8 0x00#8 0x00#8 0xFF#8 0x02#8 0x0200#16
      [(0x0200, 0xD0#8), (0x0201, 0x04#8)])
    ⟨0x00#8, 0x00#8, 0x00#8, 0xFF#8, 0x02#8, 0x0202#16, 2⟩ [] = true := by decide

/-- Vector G25 of spec/95_test_vectors.md: branch to itself. -/
theorem test_bne_G25 : runs (start 0x00#8 0x00#8 0x00#8 0xFF#8 0x00#8 0x0400#16
      [(0x0400, 0xD0#8), (0x0401, 0xFE#8)])
    ⟨0x00#8, 0x00#8, 0x00#8, 0xFF#8, 0x00#8, 0x0400#16, 3⟩ [] = true := by decide

/-- Vector G17 of spec/95_test_vectors.md: flag clear. -/
theorem test_bmi_G17 : runs (start 0x00#8 0x00#8 0x00#8 0xFF#8 0x00#8 0x0200#16
      [(0x0200, 0x30#8), (0x0201, 0x04#8)])
    ⟨0x00#8, 0x00#8, 0x00#8, 0xFF#8, 0x00#8, 0x0202#16, 2⟩ [] = true := by decide

/-- Vector G18 of spec/95_test_vectors.md: flag set. -/
theorem test_bmi_G18 : runs (start 0x00#8 0x00#8 0x00#8 0xFF#8 0x80#8 0x0200#16
      [(0x0200, 0x30#8), (0x0201, 0x04#8)])
    ⟨0x00#8, 0x00#8, 0x00#8, 0xFF#8, 0x80#8, 0x0206#16, 3⟩ [] = true := by decide

/-- Vector G19 of spec/95_test_vectors.md: flag clear. -/
theorem test_bpl_G19 : runs (start 0x00#8 0x00#8 0x00#8 0xFF#8 0x00#8 0x0200#16
      [(0x0200, 0x10#8), (0x0201, 0x04#8)])
    ⟨0x00#8, 0x00#8, 0x00#8, 0xFF#8, 0x00#8, 0x0206#16, 3⟩ [] = true := by decide

/-- Vector G20 of spec/95_test_vectors.md: flag set. -/
theorem test_bpl_G20 : runs (start 0x00#8 0x00#8 0x00#8 0xFF#8 0x80#8 0x0200#16
      [(0x0200, 0x10#8), (0x0201, 0x04#8)])
    ⟨0x00#8, 0x00#8, 0x00#8, 0xFF#8, 0x80#8, 0x0202#16, 2⟩ [] = true := by decide

/-- Vector G22 of spec/95_test_vectors.md: flag set. -/
theorem test_bvc_G22 : runs (start 0x00#8 0x00#8 0x00#8 0xFF#8 0x40#8 0x0200#16
      [(0x0200, 0x50#8), (0x0201, 0x04#8)])
    ⟨0x00#8, 0x00#8, 0x00#8, 0xFF#8, 0x40#8, 0x0202#16, 2⟩ [] = true := by decide

/-- Vector G29 of spec/95_test_vectors.md: largest forward offset. -/
theorem test_bvc_G29 : runs (start 0x00#8 0x00#8 0x00#8 0xFF#8 0x00#8 0x0200#16
      [(0x0200, 0x50#8), (0x0201, 0x7F#8)])
    ⟨0x00#8, 0x00#8, 0x00#8, 0xFF#8, 0x00#8, 0x0281#16, 3⟩ [] = true := by decide

/-- Vector G23 of spec/95_test_vectors.md: flag clear. -/
theorem test_bvs_G23 : runs (start 0x00#8 0x00#8 0x00#8 0xFF#8 0x00#8 0x0200#16
      [(0x0200, 0x70#8), (0x0201, 0x04#8)])
    ⟨0x00#8, 0x00#8, 0x00#8, 0xFF#8, 0x00#8, 0x0202#16, 2⟩ [] = true := by decide

/-- Vector G28 of spec/95_test_vectors.md: largest backward offset; page cross. -/
theorem test_bvs_G28 : runs (start 0x00#8 0x00#8 0x00#8 0xFF#8 0x40#8 0x0200#16
      [(0x0200, 0x70#8), (0x0201, 0x80#8)])
    ⟨0x00#8, 0x00#8, 0x00#8, 0xFF#8, 0x40#8, 0x0182#16, 4⟩ [] = true := by decide

/-! ### Flags, no-operation, break, return (47_flags_system.md) -/

/-- Vector H1 of spec/95_test_vectors.md. -/
theorem test_clc_H1 : runs (start 0x00#8 0x00#8 0x00#8 0xFF#8 0xFF#8 0x0200#16
      [(0x0200, 0x18#8)])
    ⟨0x00#8, 0x00#8, 0x00#8, 0xFF#8, 0xFE#8, 0x0201#16, 2⟩ [] = true := by decide

/-- Vector H2 of spec/95_test_vectors.md. -/
theorem test_sec_H2 : runs (start 0x00#8 0x00#8 0x00#8 0xFF#8 0x00#8 0x0200#16
      [(0x0200, 0x38#8)])
    ⟨0x00#8, 0x00#8, 0x00#8, 0xFF#8, 0x01#8, 0x0201#16, 2⟩ [] = true := by decide

/-- Vector H3 of spec/95_test_vectors.md. -/
theorem test_cli_H3 : runs (start 0x00#8 0x00#8 0x00#8 0xFF#8 0x04#8 0x0200#16
      [(0x0200, 0x58#8)])
    ⟨0x00#8, 0x00#8, 0x00#8, 0xFF#8, 0x00#8, 0x0201#16, 2⟩ [] = true := by decide

/-- Vector I5 of spec/95_test_vectors.md: CLI with a pending IRQ: taken in the same step (no one-instruction delay); stacked P has I=0. -/
theorem test_cli_I5 : runs ({ start 0x00#8 0x00#8 0x00#8 0xFF#8 0x04#8 0x0200#16
      [(0x0200, 0x58#8), (0xFFFB, 0x90#8), (0xFFFD, 0x04#8), (0xFFFF, 0x80#8)] with irq := true, nmi := false })
    ⟨0x00#8, 0x00#8, 0x00#8, 0xFC#8, 0x04#8, 0x8000#16, 9⟩ [(0x01FF#16, 0x02#8), (0x01FE#16, 0x01#8), (0x01FD#16, 0x20#8)] = true ∧
    latches ({ start 0x00#8 0x00#8 0x00#8 0xFF#8 0x04#8 0x0200#16 [(0x0200, 0x58#8), (0xFFFB, 0x90#8), (0xFFFD, 0x04#8), (0xFFFF, 0x80#8)] with irq := true, nmi := false }) = some (false, false) := by decide

/-- Vector H4 of spec/95_test_vectors.md. -/
theorem test_sei_H4 : runs (start 0x00#8 0x00#8 0x00#8 0xFF#8 0x00#8 0x0200#16
      [(0x0200, 0x78#8)])
    ⟨0x00#8, 0x00#8, 0x00#8, 0xFF#8, 0x04#8, 0x0201#16, 2⟩ [] = true := by decide

/-- Vector I6 of spec/95_test_vectors.md: SEI with a pending IRQ: not taken. -/
theorem test_sei_I6 : runs ({ start 0x00#8 0x00#8 0x00#8 0xFF#8 0x00#8 0x0200#16
      [(0x0200, 0x78#8), (0xFFFB, 0x90#8), (0xFFFD, 0x04#8), (0xFFFF, 0x80#8)] with irq := true, nmi := false })
    ⟨0x00#8, 0x00#8, 0x00#8, 0xFF#8, 0x04#8, 0x0201#16, 2⟩ [] = true ∧
    latches ({ start 0x00#8 0x00#8 0x00#8 0xFF#8 0x00#8 0x0200#16 [(0x0200, 0x78#8), (0xFFFB, 0x90#8), (0xFFFD, 0x04#8), (0xFFFF, 0x80#8)] with irq := true, nmi := false }) = some (true, false) := by decide

/-- Vector H5 of spec/95_test_vectors.md. -/
theorem test_cld_H5 : runs (start 0x00#8 0x00#8 0x00#8 0xFF#8 0x08#8 0x0200#16
      [(0x0200, 0xD8#8)])
    ⟨0x00#8, 0x00#8, 0x00#8, 0xFF#8, 0x00#8, 0x0201#16, 2⟩ [] = true := by decide

/-- Vector H6 of spec/95_test_vectors.md. -/
theorem test_sed_H6 : runs (start 0x00#8 0x00#8 0x00#8 0xFF#8 0x00#8 0x0200#16
      [(0x0200, 0xF8#8)])
    ⟨0x00#8, 0x00#8, 0x00#8, 0xFF#8, 0x08#8, 0x0201#16, 2⟩ [] = true := by decide

/-- Vector H7 of spec/95_test_vectors.md. -/
theorem test_clv_H7 : runs (start 0x00#8 0x00#8 0x00#8 0xFF#8 0x40#8 0x0200#16
      [(0x0200, 0xB8#8)])
    ⟨0x00#8, 0x00#8, 0x00#8, 0xFF#8, 0x00#8, 0x0201#16, 2⟩ [] = true := by decide

/-- Vector H8 of spec/95_test_vectors.md: nothing changes but PC. -/
theorem test_nop_H8 : runs (start 0x01#8 0x02#8 0x03#8 0xFF#8 0xA5#8 0x0200#16
      [(0x0200, 0xEA#8)])
    ⟨0x01#8, 0x02#8, 0x03#8, 0xFF#8, 0xA5#8, 0x0201#16, 2⟩ [] = true := by decide

/-- Vector I4 of spec/95_test_vectors.md: both pending, I=0: NMI wins, IRQ stays true and is now masked by I=1. -/
theorem test_nop_I4 : runs ({ start 0x00#8 0x00#8 0x00#8 0xFF#8 0x00#8 0x0200#16
      [(0x0200, 0xEA#8), (0xFFFB, 0x90#8), (0xFFFD, 0x04#8), (0xFFFF, 0x80#8)] with irq := true, nmi := true })
    ⟨0x00#8, 0x00#8, 0x00#8, 0xFC#8, 0x04#8, 0x9000#16, 9⟩ [(0x01FF#16, 0x02#8), (0x01FE#16, 0x01#8), (0x01FD#16, 0x20#8)] = true ∧
    latches ({ start 0x00#8 0x00#8 0x00#8 0xFF#8 0x00#8 0x0200#16 [(0x0200, 0xEA#8), (0xFFFB, 0x90#8), (0xFFFD, 0x04#8), (0xFFFF, 0x80#8)] with irq := true, nmi := true }) = some (true, false) := by decide

/-- Vector H9 of spec/95_test_vectors.md: pushes 0x0302 and P with bits 4, 5 set; I set; live bits 4, 5 unchanged. -/
theorem test_brk_H9 : runs (start 0x00#8 0x00#8 0x00#8 0xFF#8 0x01#8 0x0300#16
      [(0xFFFF, 0x80#8)])
    ⟨0x00#8, 0x00#8, 0x00#8, 0xFC#8, 0x05#8, 0x8000#16, 7⟩ [(0x01FF#16, 0x03#8), (0x01FE#16, 0x02#8), (0x01FD#16, 0x31#8)] = true := by decide

/-- Vector H11 of spec/95_test_vectors.md: return address wraps to 0x0001; stack wraps; the opcode byte 0x00 at 0xFFFF is also the vector
high byte. -/
theorem test_brk_H11 : runs (start 0x00#8 0x00#8 0x00#8 0x01#8 0x00#8 0xFFFF#16
      [(0xFFFE, 0x34#8)])
    ⟨0x00#8, 0x00#8, 0x00#8, 0xFE#8, 0x04#8, 0x0034#16, 7⟩ [(0x0101#16, 0x00#8), (0x0100#16, 0x01#8), (0x01FF#16, 0x30#8)] = true := by decide

/-- Vector H13 of spec/95_test_vectors.md: pulled bits 4, 5 ignored. -/
theorem test_rti_H13 : runs (start 0x00#8 0x00#8 0x00#8 0xFC#8 0x05#8 0x0200#16
      [(0x01FD, 0x31#8), (0x01FE, 0x02#8), (0x01FF, 0x03#8), (0x0200, 0x40#8)])
    ⟨0x00#8, 0x00#8, 0x00#8, 0xFF#8, 0x01#8, 0x0302#16, 6⟩ [] = true := by decide

/-- Vector H14 of spec/95_test_vectors.md: live bits 4, 5 kept; no + 1 on the address. -/
theorem test_rti_H14 : runs (start 0x00#8 0x00#8 0x00#8 0xFC#8 0x34#8 0x0200#16
      [(0x01FD, 0xC3#8), (0x01FE, 0xFF#8), (0x01FF, 0xFF#8), (0x0200, 0x40#8)])
    ⟨0x00#8, 0x00#8, 0x00#8, 0xFF#8, 0xF3#8, 0xFFFF#16, 6⟩ [] = true := by decide
/-! ## Memory model, bank switching, faults, unknown opcodes (sections 2.10, 2.11 of 95_test_vectors.md) -/

/-- Set-up K of section 2.11: RAM everywhere in both configurations; 16 ROM bytes at 0xA000, a Reader and a Writer at 0xB000 in
configuration 1, a switching Writer at 0xB000 in configuration 0. -/
def bankParams : Params :=
  { configs :=
      [[.mapRam 0 0 0 65536, .mapWriter 0xB000 1],
        [.mapRam 0 0 0 65536, .mapRom 0xA000 1 0 16, .mapWriter 0xB000 0, .mapReader 0xB000 0]]
    platform :=
      { readers := [⟨0, 0, { value := 0x5A#8, plat := 0, effects := { raiseIrq := true } }⟩]
        writers :=
          [⟨0, 0, 0x00#8, { plat := 0, effects := { setCfg := some 0 } }⟩,
            ⟨1, 0, 0x01#8, { plat := 0, effects := { setCfg := some 1 } }⟩,
            ⟨1, 0, 0x02#8, { plat := 0, effects := { setCfg := some 2 } }⟩] } }

/-- The 16 bytes 0xA5 of K's ROM. -/
def romCells : Memory := (List.range 16).map fun i => (i, 0xA5#8)

/-- The default start in set-up K. -/
def bank (cfg : Nat) (a p : Byte) (pc : Word) (cells : Memory) : State :=
  { start a 0x00#8 0x00#8 0xFF#8 p pc cells with
    cfg := cfg, params := bankParams, stores := [{ size := 65536, cells := cells }, { size := 16, cells := romCells }] }

/-- `C = 1` and only 0x0000 to 0x0FFF bound (K10 to K13). -/
def smallRam (pc : Word) (cells : Memory) : State :=
  { start 0x00#8 0x00#8 0x00#8 0xFF#8 0x00#8 pc cells with params := { configs := [[.mapRam 0 0 0 0x1000]] } }

/-- A fault without the state it leaves. -/
def bare (e : Fault) : Fault :=
  match e with
  | .unknownOpcode b pc _ => .unknownOpcode b pc State.reset
  | .unboundAccess a c k _ => .unboundAccess a c k State.reset
  | .configIndexOutOfRange i _ => .configIndexOutOfRange i State.reset

/-- The fault a step ends in, without the state it leaves. -/
def faultOf (s : State) : Option Fault :=
  match step s with
  | .fault e => some (bare e)
  | _ => none

/-- K1: a store in configuration 0 reaches the RAM. -/
theorem test_bank_K1 : (nextOf (step (bank 0 0x11#8 0x00#8 0x0200#16 [(0x0200, 0x8D#8), (0x0202, 0xA0#8)]))).map
    (fun t => (storeByte? t.stores 0 0xA000, t.cfg)) = some (some 0x11#8, 0) := by decide

/-- K2: in configuration 1 the ROM byte is read and the RAM byte stays. -/
theorem test_bank_K2 : (nextOf (step (bank 1 0x11#8 0x00#8 0x0200#16 [(0x0200, 0xAD#8), (0x0202, 0xA0#8), (0xA000, 0x11#8)]))).map
    (fun t => (t.a, storeByte? t.stores 0 0xA000)) = some (0xA5#8, some 0x11#8) := by decide

/-- K3: a write to ROM is dropped, without a fault. -/
theorem test_bank_K3 : (nextOf (step (bank 1 0x22#8 0x00#8 0x0200#16 [(0x0200, 0x8D#8), (0x0202, 0xA0#8), (0xA000, 0x11#8)]))).map
    (fun t => (storeByte? t.stores 1 0, storeByte? t.stores 0 0xA000, t.es.cycles)) = some (some 0xA5#8, some 0x11#8, 4) := by decide

/-- K4: INC on ROM drops the write and still sets the flags from the computed value. -/
theorem test_incAbs_K4 : (nextOf (step (bank 1 0x00#8 0x00#8 0x0200#16 [(0x0200, 0xEE#8), (0x0202, 0xA0#8)]))).map
    (fun t => (storeByte? t.stores 1 0, t.p)) = some (some 0xA5#8, 0x80#8) := by decide

/-- K5: a Reader's request is seen by the poll of the same step. -/
theorem test_bank_K5 : (nextOf (step (bank 1 0x00#8 0x00#8 0x0200#16 [(0x0200, 0xAD#8), (0x0202, 0xB0#8)]))).map
    (fun t => (t.a, t.pc, t.sp, t.p, t.irq)) = some (0x5A#8, 0x0000#16, 0xFC#8, 0x04#8, false) := by decide

/-- K6: a Writer switches the configuration and stores nothing by itself. -/
theorem test_bank_K6 : (nextOf (step (bank 1 0x00#8 0x00#8 0x0200#16 [(0x0200, 0x8D#8), (0x0202, 0xB0#8)]))).map
    (fun t => (t.cfg, storeByte? t.stores 0 0xB000)) = some (0, some 0x00#8) := by decide

/-- K8: after the switching store, memory is seen through configuration 1. -/
theorem test_bank_K8 : (nextOf (step (bank 0 0x01#8 0x00#8 0x0200#16 [(0x0200, 0x8D#8), (0x0202, 0xB0#8)]))).map
    (fun t => (t.cfg, t.peek 0xA000#16)) = some (1, some 0xA5#8) := by decide

/-- K9: an index out of range, asked for by a Writer, is a fault. -/
theorem test_bank_K9 : faultOf (bank 0 0x02#8 0x00#8 0x0200#16 [(0x0200, 0x8D#8), (0x0202, 0xB0#8)]) =
    some (.configIndexOutOfRange 2 State.reset) := by decide

/-- K10: an unbound read. -/
theorem test_unbound_K10 : faultOf (smallRam 0x0200#16 [(0x0200, 0xAD#8), (0x0202, 0x20#8)]) =
    some (.unboundAccess 0x2000#16 0 .read State.reset) := by decide

/-- K11: an unbound write. -/
theorem test_unbound_K11 : faultOf (smallRam 0x0200#16 [(0x0200, 0x8D#8), (0x0202, 0x20#8)]) =
    some (.unboundAccess 0x2000#16 0 .write State.reset) := by decide

/-- K12: an operand fetch past the bound range. -/
theorem test_unbound_K12 : faultOf (smallRam 0x0FFF#16 [(0x0FFF, 0xA9#8)]) = some (.unboundAccess 0x1000#16 0 .read State.reset) := by
  decide

/-- K13: BRK pushes, then its vector read faults. -/
theorem test_unbound_K13 : faultOf (smallRam 0x0200#16 []) = some (.unboundAccess 0xFFFE#16 0 .read State.reset) := by decide

/-- R156 with R277 to R280: the operand answers a Reader that gives 0x81 and no write is bound, so the write faults after C has taken
the bit shifted out and before Z and N are set; PC stays. -/
theorem test_unbound_shift_write :
    let params : Params :=
      { configs := [[.mapRam 0 0 0 0x1000, .mapReader 0x2000 0]]
        platform := { readers := [⟨0, 0, { value := 0x81#8, plat := 0, effects := {} }⟩] } }
    let s := { smallRam 0x0200#16 [] with params := params, p := 0x02#8 }
    [Instr.aslAbs 0x2000#16, .lsrAbs 0x2000#16, .rolAbs 0x2000#16, .rorAbs 0x2000#16, .incAbs 0x2000#16].map
        (fun i => match exec i s with
          | .fault (.unboundAccess a _ .write left) => (a, left.p, left.pc)
          | _ => (0x0000#16, 0x00#8, 0x0000#16)) =
      List.replicate 4 (0x2000#16, 0x03#8, 0x0200#16) ++ [(0x2000#16, 0x02#8, 0x0200#16)] := by decide

/-- J1, the step that meets 0x02: tolerant mode. -/
theorem test_unknown_J1 : (nextOf (step (start 0x01#8 0x00#8 0x00#8 0xFF#8 0x00#8 0x0202#16 [(0x0202, 0x02#8)]))).map
    (fun t => (t.pc, t.es)) = some (0x0203#16, { unknownCount := 1, lastOpcode := 0x02#8 }) := by decide

/-- J6: strict mode. -/
theorem test_unknown_J6 : faultOf { start 0x01#8 0x00#8 0x00#8 0xFF#8 0x00#8 0x0202#16 [(0x0202, 0x02#8)] with
    params := { allRam with unknownThrows := true } } = some (.unknownOpcode 0x02#8 0x0202#16 State.reset) := by decide

/-- J7: no poll after an unknown opcode. -/
theorem test_unknown_J7 : latches { start 0x00#8 0x00#8 0x00#8 0xFF#8 0x00#8 0x0200#16 [(0x0200, 0x02#8)] with irq := true } =
    some (true, false) := by decide

/-- J8: the skip wraps PC. -/
theorem test_unknown_J8 : (nextOf (step (start 0x00#8 0x00#8 0x00#8 0xFF#8 0x00#8 0xFFFF#16 [(0xFFFF, 0xFF#8)]))).map State.pc =
    some 0x0000#16 := by decide

/-- I11: the poll of the same step takes the IRQ the observer raised when told of the NOP's 2 cycles. -/
theorem test_observer_I11 : (nextOf (step
    { start 0x00#8 0x00#8 0x00#8 0xFF#8 0x00#8 0x0200#16 [(0x0200, 0xEA#8), (0xFFFF, 0x80#8)] with
      params := { allRam with
        observer := some 0
        platform := { observers := [⟨0, 0, 2, { plat := 0, storeWrites := [], setIrq := some true, raiseNmi := false }⟩] } } })).map
    (fun t => (t.pc, t.sp, t.p, t.irq, t.peek 0x01FE#16)) = some (0x8000#16, 0xFC#8, 0x04#8, false, some 0x01#8) := by decide

/-- J5: one instruction under `MaxNumberOfInstructions = 1`. -/
theorem test_execute_J5 : execute [maxNumberOfInstructions 1] 2
    (start 0x02#8 0x00#8 0x00#8 0xFF#8 0x00#8 0x0205#16 [(0x0205, 0xEA#8)]) =
    .stopped 0 (some "MaxNumberOfInstructions") { start 0x02#8 0x00#8 0x00#8 0xFF#8 0x00#8 0x0205#16 [(0x0205, 0xEA#8)] with
      pc := 0x0206#16, es := { cycles := 2, instructions := 1, lastOpcode := 0xEA#8, lastHandled := true } } := by decide

/-- R157, on J1's program: the Minimal entry point gives back the cycles and leaves the counters. -/
theorem test_minimal : nextOf (andThen (executeOneInstructionMinimal true
    (start 0x00#8 0x00#8 0x00#8 0xFF#8 0x00#8 0x0200#16 [(0x0200, 0xA9#8), (0x0201, 0x01#8)])) fun r =>
      if r.known && r.cyclesConsumed == 2 then .next r.state else .next State.reset) =
    some { start 0x01#8 0x00#8 0x00#8 0xFF#8 0x00#8 0x0202#16 [(0x0200, 0xA9#8), (0x0201, 0x01#8)] with es := {} } := by decide

/-! ## The host surface and reset -/

/-- S6: the byte written in configuration 0 is read back after the stay in configuration 1. -/
theorem test_switch_S6 : (nextOf (andThen (memWrite 0xA000#16 0x11#8 (bank 0 0x00#8 0x00#8 0x0200#16 [])) fun s =>
    andThen (setMemoryConfiguration 1 s) fun s => andThen (memWrite 0xA000#16 0x22#8 s) fun s =>
    setMemoryConfiguration 0 s)).map (fun t => t.peek 0xA000#16) = some (some 0x11#8) := by decide

/-- S7: a word written to the reset vector, then Reset. -/
theorem test_reset_S7 : (nextOf (andThen (hostMove (.writeWord 0xFFFC#16 0x1234#16) State.reset) (hostMove .reset))).map
    (fun t => (t.pc, t.a, t.x, t.y, t.sp, t.p, t.peek 0xFFFC#16)) =
    some (0x1234#16, 0x00#8, 0x00#8, 0x00#8, 0xFD#8, 0x24#8, some 0x34#8) := by decide

/-- R97: the bit operations of the memory surface. -/
theorem test_setBit : (nextOf (hostMove (.setBit 0x0010#16 7) State.reset)).map (fun t => t.peek 0x0010#16) = some (some 0x80#8) := by
  decide

/-- R97. -/
theorem test_clearBit : (nextOf (hostMove (.clearBit 0x0010#16 0) (start 0 0 0 0 0 0 [(0x0010, 0x03#8)]))).map
    (fun t => t.peek 0x0010#16) = some (some 0x02#8) := by decide

/-- R99: a program image names its load address, low byte first. -/
theorem test_loadImage : (nextOf (loadImage [0xFF#8, 0xFF#8, 0x01#8, 0x02#8] State.reset)).map
    (fun t => (t.peek 0xFFFF#16, t.peek 0x0000#16)) = some (some 0x01#8, some 0x02#8) := by decide

/-- The host's own question: the instruction placed at PC is the one the first step after reset runs (R201). -/
theorem test_withFetchWord : (nextOf (step (State.reset.withFetchWord 16 0x44A9))).map (fun t => (t.a, t.pc)) =
    some (0x44#8, 0x0002#16) := by decide

/-! ## Witnesses: for every statement with hypotheses, states and operands that meet them, one per clause -/

theorem nextOf_isSome {r : Result State} (h : (nextOf r).isSome = true) : ∃ t, r = .next t := by
  cases r with
  | next t => exact ⟨t, rfl⟩
  | fault e => simp [nextOf] at h
  | refused e => simp [nextOf] at h

/-- With all of memory one RAM store, an address meets itself and no other. -/
theorem allRam_shares {s : State} (hp : s.params = allRam) (hc : s.cfg = 0) (a b : Word) : s.Shares a b ↔ a = b := by
  have hw : writeBinding s a = .array 0 a.toNat := by
    simp [writeBinding, activeOps, hp, hc, allRam, writeTable, BindOp.writeAt, Config.addressSpace, a.isLt]
  have hr : readBinding s b = .array 0 b.toNat := by
    simp [readBinding, activeOps, hp, hc, allRam, readTable, BindOp.readAt, Config.addressSpace, b.isLt]
  simp only [State.Shares, hw, hr, WriteBinding.array.injEq, ReadBinding.array.injEq]
  constructor
  · rintro ⟨st, i, ⟨-, h1⟩, -, h2⟩
    exact BitVec.eq_of_toNat_eq (h1.trans h2.symm)
  · rintro rfl
    exact ⟨0, a.toNat, ⟨rfl, rfl⟩, rfl, rfl⟩

theorem allRam_noCallbacks {s : State} (hp : s.params = allRam) : s.NoCallbacks := by
  refine ⟨by rw [hp]; rfl, ?_⟩
  rw [hp]
  intro ops ho op h
  simp only [allRam, List.mem_singleton] at ho
  subst ho
  simp only [List.mem_singleton] at h
  subst h
  exact ⟨nofun, nofun⟩

theorem start_plain (a x y sp p : Byte) (pc : Word) (cells : Memory) : (start a x y sp p pc cells).Plain := by
  intro w
  have hr : readBinding (start a x y sp p pc cells) w = .array 0 w.toNat := by
    simp [readBinding, activeOps, start, State.reset, allRam, readTable, BindOp.readAt, Config.addressSpace, w.isLt]
  have hw : writeBinding (start a x y sp p pc cells) w = .array 0 w.toNat := by
    simp [writeBinding, activeOps, start, State.reset, allRam, writeTable, BindOp.writeAt, Config.addressSpace, w.isLt]
  constructor
  · simp only [State.peek, hr]
    simp [storeByte?, start, w.isLt]
  · intro v
    simp only [State.poke, hw]
    simp [storeWrite?, start, w.isLt]

/-- The machine the witnesses run on: pointers at 0x20 (0x30F8) and 0xFF (0x0000 to 0x30), BCD digits in A, C and D set. -/
def m1 : State := start 0x58#8 0x10#8 0x20#8 0xFF#8 0x09#8 0x0200#16
  [(0x0000, 0x30#8), (0x0020, 0xF8#8), (0x0021, 0x30#8), (0x0100, 0x34#8), (0x0101, 0x12#8), (0x0200, 0xB1#8), (0x0201, 0x20#8),
    (0x1300, 0x46#8), (0x3000, 0x80#8), (0x3118, 0x46#8)]

/-- `m1` with D clear. -/
def m2 : State := { m1 with p := 0x01#8 }

theorem witness_EncodeOfDecode : decode [0xB1#8, 0xC5#8, 0xEA#8] = .instr (.ldaIndY 0xC5#8) [0xEA#8] := by decide

theorem witness_StepRunsDecodedInstruction :
    m1.bytesAt m1.pc 2 = some [0xB1#8, 0x20#8] ∧ decode [0xB1#8, 0x20#8] = .instr (.ldaIndY 0x20#8) [] := by decide

/-- At the top of the address space, three bytes. -/
theorem witness_StepRunsDecodedInstruction_wraps :
    let s := start 0 0 0 0 0 0xFFFE#16 [(0x0000, 0x20#8), (0xFFFE, 0xAD#8), (0xFFFF, 0x10#8)]
    s.bytesAt s.pc 3 = some [0xAD#8, 0x10#8, 0x20#8] ∧ decode [0xAD#8, 0x10#8, 0x20#8] = .instr (.ldaAbs 0x2010#16) [] := by decide

theorem witness_QuietStepIsTheInstruction :
    m1.bytesAt m1.pc 2 = some [0xB1#8, 0x20#8] ∧ decode [0xB1#8, 0x20#8] = .instr (.ldaIndY 0x20#8) [] ∧
    m1.params.observer = none ∧
    (nextOf (exec (.ldaIndY 0x20#8) m1)).map (fun t => (t.nmi, t.irq)) = some (false, false) := by decide

/-- With an IRQ pending and masked. -/
theorem witness_QuietStepIsTheInstruction_masked :
    let s := { start 0 0 0 0 0 0 [(0x0000, 0x78#8)] with irq := true }
    s.bytesAt s.pc 1 = some [0x78#8] ∧ decode [0x78#8] = .instr .sei [] ∧ s.params.observer = none ∧
    (nextOf (exec .sei s)).map (fun t => (t.nmi, flagI t.p)) = some (false, true) := by decide

/-- The opcode 0x5A, read from K's Reader at 0xB000. -/
theorem witness_StrictUnknownOpcodeFaults :
    let s : State := { bank 1 0 0 0xB000#16 [] with params := { bankParams with unknownThrows := true } }
    memRead s.pc s = .next (0x5A#8, { s with irq := true }) ∧ opcodeLength 0x5A#8 = none ∧ s.params.unknownThrows = true :=
  ⟨rfl, by decide, rfl⟩

/-- The opcode 0xFF at the top of memory. -/
theorem witness_TolerantUnknownOpcodeIsSkipped :
    let s := start 0 0 0 0 0 0xFFFF#16 [(0xFFFF, 0xFF#8)]
    memRead s.pc s = .next (0xFF#8, s) ∧ opcodeLength 0xFF#8 = none ∧ s.params.unknownThrows = false :=
  ⟨rfl, by decide, rfl⟩

/-- Pointers at 0xFF: the second byte comes from 0x00, for `(0xEF,X)` with X = 0x10 and for `(0xFF),Y`. -/
theorem witness_EffectiveAddresses :
    m1.peek (BitVec.ofNat 16 (((0xEF#8).toNat + m1.x.toNat) % 256)) = some 0x00#8 ∧
    m1.peek (BitVec.ofNat 16 (((0xEF#8).toNat + m1.x.toNat + 1) % 256)) = some 0x30#8 ∧
    m1.peek (BitVec.ofNat 16 (0xFF#8).toNat) = some 0x00#8 ∧ m1.peek (BitVec.ofNat 16 (((0xFF#8).toNat + 1) % 256)) = some 0x30#8 := by
  decide

/-- LDA (d),Y over a page, LDX and LDY absolute. -/
theorem witness_LoadResult :
    (sourceOf (.ldaIndY 0x20#8) = some (.mem (.indY 0x20#8)) ∧ m1.value (.mem (.indY 0x20#8)) = some (0x46#8, true) ∧
      (Instr.ldaIndY 0x20#8).row.mnemonic = .lda) ∧
    (sourceOf (.ldxAbs 0x3000#16) = some (.mem (.abs 0x3000#16)) ∧ m1.value (.mem (.abs 0x3000#16)) = some (0x80#8, false) ∧
      (Instr.ldxAbs 0x3000#16).row.mnemonic = .ldx) ∧
    (sourceOf (.ldyAbsX 0x12F0#16) = some (.mem (.absX 0x12F0#16)) ∧ m1.value (.mem (.absX 0x12F0#16)) = some (0x46#8, true) ∧
      (Instr.ldyAbsX 0x12F0#16).row.mnemonic = .ldy) := by decide

/-- The three registers, the last at 0xFFFF. -/
theorem witness_StoreResult :
    ((Instr.staIndY 0x20#8).row.mnemonic = .sta ∧ targetOf (.staIndY 0x20#8) = some (.indY 0x20#8) ∧
      m1.address (.indY 0x20#8) = some 0x3118#16 ∧ (m1.poke 0x3118#16 m1.a).isSome = true) ∧
    ((Instr.stxZpY 0xF0#8).row.mnemonic = .stx ∧ targetOf (.stxZpY 0xF0#8) = some (.zpY 0xF0#8) ∧
      m1.address (.zpY 0xF0#8) = some 0x0010#16 ∧ (m1.poke 0x0010#16 m1.x).isSome = true) ∧
    ((Instr.styAbs 0xFFFF#16).row.mnemonic = .sty ∧ targetOf (.styAbs 0xFFFF#16) = some (.abs 0xFFFF#16) ∧
      m1.address (.abs 0xFFFF#16) = some 0xFFFF#16 ∧ (m1.poke 0xFFFF#16 m1.y).isSome = true) := by decide

/-- An instruction that leaves SP where it was, and one that moves it. -/
theorem witness_TransferResult :
    ((∃ t, exec .nop m1 = .next t) ∧ Instr.nop.row.mnemonic ≠ .txs) ∧ (∃ t, exec .rti m1 = .next t) ∧ Instr.rti.row.mnemonic ≠ .txs :=
  ⟨⟨⟨_, rfl⟩, by decide⟩, nextOf_isSome (by decide), by decide⟩

/-- Pushes at SP = 0x00, where SP wraps, of both instructions; pulls at SP = 0xFF. -/
theorem witness_StackInstructionResult :
    let s := start 0x42 0 0 0x00 0xCF 0 []
    (s.poke (stackBelow s.sp 0) s.a).isSome = true ∧
    (s.poke (stackBelow s.sp 0)
      (statusByte (flagN s.p) (flagV s.p) true true (flagD s.p) (flagI s.p) (flagZ s.p) (flagC s.p))).isSome = true ∧
    m1.peek (stackAbove m1.sp 1) = some 0x34#8 := by decide

theorem witness_LogicResult :
    sourceOf (.andZp 0x21#8) = some (.mem (.zp 0x21#8)) ∧ m1.value (.mem (.zp 0x21#8)) = some (0x30#8, false) ∧
    (Instr.andZp 0x21#8).row.mnemonic = .and ∧
    sourceOf (.oraImm 0x00#8) = some (.imm 0x00#8) ∧ m1.value (.imm 0x00#8) = some (0x00#8, false) ∧
    (Instr.oraImm 0x00#8).row.mnemonic = .ora ∧
    sourceOf (.eorAbsX 0x12F0#16) = some (.mem (.absX 0x12F0#16)) ∧ m1.value (.mem (.absX 0x12F0#16)) = some (0x46#8, true) ∧
    (Instr.eorAbsX 0x12F0#16).row.mnemonic = .eor := by decide

theorem witness_BitResult :
    (Instr.bitAbs 0x3000#16).row.mnemonic = .bit ∧ sourceOf (.bitAbs 0x3000#16) = some (.mem (.abs 0x3000#16)) ∧
    m1.value (.mem (.abs 0x3000#16)) = some (0x80#8, false) := by decide

theorem witness_AdcBinaryResult :
    (Instr.adcAbsX 0x12F0#16).row.mnemonic = .adc ∧ sourceOf (.adcAbsX 0x12F0#16) = some (.mem (.absX 0x12F0#16)) ∧
    m2.value (.mem (.absX 0x12F0#16)) = some (0x46#8, true) ∧ flagD m2.p = false := by decide

/-- 58 + 46 + 1 (vector E20). -/
theorem witness_AdcDecimalResult :
    (Instr.adcAbsX 0x12F0#16).row.mnemonic = .adc ∧ sourceOf (.adcAbsX 0x12F0#16) = some (.mem (.absX 0x12F0#16)) ∧
    m1.value (.mem (.absX 0x12F0#16)) = some (0x46#8, true) ∧ flagD m1.p = true := by decide

theorem witness_SbcBinaryResult :
    (Instr.sbcIndY 0x20#8).row.mnemonic = .sbc ∧ sourceOf (.sbcIndY 0x20#8) = some (.mem (.indY 0x20#8)) ∧
    m2.value (.mem (.indY 0x20#8)) = some (0x46#8, true) ∧ flagD m2.p = false := by decide

/-- An invalid digit as the operand. -/
theorem witness_SbcDecimalResult :
    (Instr.sbcImm 0x0F#8).row.mnemonic = .sbc ∧ sourceOf (.sbcImm 0x0F#8) = some (.imm 0x0F#8) ∧
    m1.value (.imm 0x0F#8) = some (0x0F#8, false) ∧ flagD m1.p = true := by decide

theorem witness_CompareResult :
    (Instr.cmpIndY 0x20#8).row.mnemonic = .cmp ∧ sourceOf (.cmpIndY 0x20#8) = some (.mem (.indY 0x20#8)) ∧
    m1.value (.mem (.indY 0x20#8)) = some (0x46#8, true) ∧
    (Instr.cpxZp 0x21#8).row.mnemonic = .cpx ∧ sourceOf (.cpxZp 0x21#8) = some (.mem (.zp 0x21#8)) ∧
    m1.value (.mem (.zp 0x21#8)) = some (0x30#8, false) ∧
    (Instr.cpyImm 0x20#8).row.mnemonic = .cpy ∧ sourceOf (.cpyImm 0x20#8) = some (.imm 0x20#8) ∧
    m1.value (.imm 0x20#8) = some (0x20#8, false) := by decide

/-- 99 and 99, 00 and 99, with D set. -/
theorem witness_DecimalModeIsDecimal :
    (validBcd 0x99#8 ∧ validBcd 0x99#8 ∧ flagD 0x09#8 = true) ∧ (validBcd 0x00#8 ∧ validBcd 0x99#8 ∧ flagD 0x08#8 = true) := by
  simp [validBcd, flagD]

/-- INC and the other five at 0x1300, reached by an indexed address over a page. -/
theorem witness_ModifyMemoryResult :
    [Instr.incAbsX 0x12F0#16, .decAbsX 0x12F0#16, .aslAbsX 0x12F0#16, .lsrAbsX 0x12F0#16, .rolAbsX 0x12F0#16, .rorAbsX 0x12F0#16].map
      (fun i => (i.row.mnemonic, targetOf i)) =
    [Mnemonic.inc, .dec, .asl, .lsr, .rol, .ror].map (fun n => (n, some (Ea.absX 0x12F0#16))) ∧
    m1.address (.absX 0x12F0#16) = some 0x1300#16 ∧ m1.peek 0x1300#16 = some 0x46#8 ∧
    [0x46 + 1, 0x46 + 255, 2 * 0x46, 0x46 / 2, 2 * 0x46 + 1, 0x46 / 2 + 128].all
      (fun n => (m1.poke 0x1300#16 (BitVec.ofNat 8 n)).isSome) = true := by decide

/-- A pointer at the last byte of a page. -/
theorem witness_JumpResult :
    m1.peekWord 0x02FF#16 (BitVec.ofNat 16 ((0x02FF#16).toNat / 256 * 256 + ((0x02FF#16).toNat % 256 + 1) % 256)) = some 0xB100#16 := by
  decide

/-- A JSR at the top of memory with SP = 0x00; an RTS with SP = 0xFF. -/
theorem witness_CallAndReturnResult :
    let s := start 0 0 0 0x00 0 0xFFFE#16 []
    let ret := (s.pc.toNat + 2) % 65536
    (s.pokes [(stackBelow s.sp 0, BitVec.ofNat 8 (ret / 256)), (stackBelow s.sp 1, BitVec.ofNat 8 (ret % 256))]).isSome = true ∧
    m1.peekWord (stackAbove m1.sp 1) (stackAbove m1.sp 2) = some 0x1234#16 := by decide

/-- Each of the eight branches, with its condition. -/
theorem witness_BranchResult : ∃ d cond,
    (Instr.bcc d = .bcc d ∧ cond = !flagC m1.p) ∧ (Instr.bcs d = .bcs d ∧ (!cond) = flagC m1.p) ∧
    (Instr.beq d = .beq d ∧ cond = flagZ m1.p) ∧ (Instr.bne d = .bne d ∧ (!cond) = !flagZ m1.p) ∧
    (Instr.bmi d = .bmi d ∧ cond = flagN m1.p) ∧ (Instr.bpl d = .bpl d ∧ (!cond) = !flagN m1.p) ∧
    (Instr.bvc d = .bvc d ∧ (!cond) = !flagV m1.p) ∧ (Instr.bvs d = .bvs d ∧ cond = flagV m1.p) :=
  ⟨0x80#8, false, by decide⟩

/-- A callee that has jumped, loaded A and stored a byte elsewhere, with its return address intact. -/
theorem witness_CallThenReturn : ∃ t u : State,
    exec (.jsr 0x3000#16) m1 = .next t ∧ memWrite 0x4000#16 0xAA#8 { t with a := 0x55#8, pc := 0x3010#16 } = .next u ∧
    u.stores ≠ t.stores ∧ u.sp = t.sp ∧
    u.peek (stackBelow m1.sp 0) = t.peek (stackBelow m1.sp 0) ∧ u.peek (stackBelow m1.sp 1) = t.peek (stackBelow m1.sp 1) ∧
    m1.Shares (stackBelow m1.sp 0) (stackBelow m1.sp 0) ∧ m1.Shares (stackBelow m1.sp 1) (stackBelow m1.sp 1) ∧
    ¬ m1.Shares (stackBelow m1.sp 1) (stackBelow m1.sp 0) := by
  refine ⟨_, _, rfl, rfl, by decide, rfl, by decide, by decide, ?_, ?_, ?_⟩ <;> rw [allRam_shares rfl rfl]
  decide

theorem witness_BrkResult :
    (m1.pokes (trapPushes m1.sp ((m1.pc.toNat + 2) % 65536)
      (statusByte (flagN m1.p) (flagV m1.p) true true (flagD m1.p) (flagI m1.p) (flagZ m1.p) (flagC m1.p)))).bind
      (fun t => t.peekWord 0xFFFE#16 0xFFFF#16) = some 0x0000#16 := by decide

/-- SP = 0xFF: the three bytes come from 0x0100 on. -/
theorem witness_RtiResult :
    m1.peek (stackAbove m1.sp 1) = some 0x34#8 ∧ m1.peekWord (stackAbove m1.sp 2) (stackAbove m1.sp 3) = some 0x0012#16 := by decide

/-- One instruction of each mnemonic that answers a next state from `m1`. -/
def oneOfEach : List Instr :=
  let load : List Instr := [.ldaIndX 0xEF#8, .ldxZpY 0x01#8, .ldyAbsX 0x12F0#16, .staIndY 0x20#8, .stxZp 0xFF#8, .styZpX 0xFF#8]
  let move : List Instr := [.tax, .tay, .txa, .tya, .tsx, .txs, .pha, .php, .pla, .plp]
  let alu : List Instr := [.andIndY 0x20#8, .oraAbsY 0x02#16, .eorImm 0x03#8, .bitZp 0x04#8, .adcIndX 0x05#8, .sbcAbs 0x06#16]
  let compare : List Instr := [.cmpAbsY 0x07#16, .cpxImm 0x08#8, .cpyZp 0x09#8]
  let modify : List Instr := [.incAbsX 0xFFFF#16, .decZp 0x00#8, .inx, .iny, .dex, .dey, .aslAcc, .lsrZpX 0x01#8]
  let rotate : List Instr := [.rolAbs 0x02#16, .rorAbsX 0x03#16]
  let jump : List Instr := [.jmpAbs 0x04#16, .jmpInd 0x02FF#16, .jsr 0x05#16, .rts, .bcc 0x06#8, .bcs 0x07#8, .beq 0x08#8, .bne 0x09#8]
  let branch : List Instr := [.bmi 0x0A#8, .bpl 0x0B#8, .bvc 0x0C#8, .bvs 0x0D#8]
  let flags : List Instr := [.clc, .sec, .cli, .sei, .cld, .sed, .clv, .nop, .brk, .rti]
  load ++ move ++ alu ++ compare ++ modify ++ rotate ++ jump ++ branch ++ flags

theorem oneOfEach_answers : ∀ i ∈ oneOfEach, ∃ t, exec i m1 = .next t := by
  have h : oneOfEach.all (fun i => (nextOf (exec i m1)).isSome) = true := by decide
  intro i hi
  exact nextOf_isSome (List.all_eq_true.mp h i hi)

/-- Both clauses: NOP among the instructions named, and BRK. -/
theorem witness_FlagsNeverChangedBy :
    (∃ t, exec .nop m1 = .next t) ∧ Instr.nop.row.mnemonic ∈
      [Mnemonic.sta, .stx, .sty, .txs, .pha, .php, .jmp, .jsr, .rts, .nop, .bcc, .bcs, .beq, .bne, .bmi, .bpl, .bvc, .bvs] ∧
    (∃ t, exec .brk m1 = .next t) ∧ Instr.brk.row.mnemonic = .brk :=
  ⟨oneOfEach_answers _ (by decide), by decide, oneOfEach_answers _ (by decide), by decide⟩

/-- Every mnemonic answers from `m1`; INX is in none of the lists but that of Z and N, NOP in none at all. -/
theorem witness_FlagWriters : ∀ i ∈ oneOfEach, ∃ t, exec i m1 = .next t := oneOfEach_answers

theorem witness_RegisterWriters : ∀ i ∈ oneOfEach, ∃ t, exec i m1 = .next t := oneOfEach_answers

theorem witness_BookkeepingOfEveryInstruction : ∀ i ∈ oneOfEach, ∃ t, exec i m1 = .next t := oneOfEach_answers

theorem witness_MemoryFrame : m1.NoCallbacks ∧ (∀ i ∈ oneOfEach, ∃ t, exec i m1 = .next t) ∧ writtenCells .nop m1 = [] ∧
    writtenCells (.staIndY 0x20) m1 = [0x3118#16] :=
  ⟨allRam_noCallbacks rfl, oneOfEach_answers, by decide, by decide⟩

/-- A store byte seen at two addresses in two configurations; the ROM byte of K is another. -/
theorem witness_WritesSeenThroughEveryView :
    let s := { m1 with params := { configs := [[.mapRam 0x1000 0 5 1], [.mapRom 0x2000 0 5 1, .mapRom 0x3000 0 6 1]] } }
    writeBinding s 0x1000#16 = .array 0 5 ∧ (nextOf (memWrite 0x1000#16 0x77#8 s)).isSome = true ∧
    readTable (s.params.configs.getD 1 []) (0x2000#16).toNat = .array 0 5 ∧
    readTable (s.params.configs.getD 1 []) (0x3000#16).toNat ≠ .array 0 5 ∧
    (nextOf (hostMove (.writeSharedStore ⟨0, 5, 0x77#8⟩) s)).isSome = true := by decide

/-- ROM at 0xA000 and, in a second wiring, over the whole stack page. -/
theorem witness_RomWritesAreDropped :
    let s := bank 1 0 0 0x0200#16 []
    let t := { m1 with params := { configs := [[.mapRom 0x0100 0 0 256]] } }
    (writeBinding s 0xA000#16 = .drop ∧ s.peek 0xA000#16 = some 0xA5#8) ∧ writeBinding t (stackBelow t.sp 0) = .drop := by decide

/-- The last bound address is 0x0FFF, the first unbound one 0x1000. -/
theorem witness_UnboundAccessFaults :
    let s := smallRam 0x1000#16 []
    readBinding s 0x0FFF#16 ≠ .unbound ∧ readBinding s 0x1000#16 = .unbound ∧ writeBinding s 0x1000#16 = .unbound ∧
    readBinding s s.pc = .unbound := by decide

/-- The boundary values of the index, inside and outside. -/
theorem witness_SetMemoryConfigurationSwitches :
    let s := bank 0 0 0 0 []
    ((0 : Int) ≤ 0 ∧ (0 : Int) < s.params.configs.length) ∧ ((0 : Int) ≤ 1 ∧ (1 : Int) < s.params.configs.length) ∧
    ¬ ((0 : Int) ≤ 2 ∧ (2 : Int) < s.params.configs.length) ∧ ¬ ((0 : Int) ≤ -1 ∧ (-1 : Int) < s.params.configs.length) := by decide

theorem witness_SwitchingKeepsStorage :
    let s := bank 0 0 0 0 []
    (∃ t, setMemoryConfiguration 1 s = .next t) ∧
    s.Shares 0xA000#16 0xA000#16 ∧ ∃ t u w, memWrite 0xA000#16 0x11#8 s = .next t ∧ setMemoryConfiguration 1 t = .next u ∧
      setMemoryConfiguration s.cfg u = .next w :=
  ⟨⟨_, rfl⟩, ⟨0, 0xA000, by decide, by decide⟩, _, _, _, rfl, rfl, rfl⟩

/-- A Writer that writes a store byte, switches and raises both requests; K's Reader without its request. -/
theorem witness_CallbackAccesses :
    let reply : WriterReply :=
      { plat := 9, effects := { storeWrites := [⟨1, 15, 0x42#8⟩], setCfg := some ((0 : Nat) : Int), raiseIrq := true, raiseNmi := true } }
    let s := { bank 1 0x07 0 0x0200#16 [] with params := { bankParams with platform :=
      { readers := [⟨0, 0, { value := 0x5A#8, plat := 3, effects := {} }⟩], writers := [⟨0, 0, 0x07#8, reply⟩] } } }
    writeBinding s 0xB000#16 = .writer 0 ∧ 0 < s.params.configs.length ∧ writerReply s.params.platform 0 s.plat s.a = reply ∧
    (storeWrite? s.stores 1 15 0x42#8).isSome = true ∧
    readBinding s 0xB000#16 = .reader 0 ∧ readerReply s.params.platform 0 s.plat = ⟨0x5A#8, 3, {}⟩ := by decide

/-- NMI, with I set; and IRQ alone, with I clear; SP = 0x01, so that the frame wraps. -/
theorem witness_InterruptEntry :
    let s := { start 0 0 0 0x01 0x14 0x8000#16 [(0xFFFB, 0x90#8)] with nmi := true }
    let r := { start 0 0 0 0x01 0x10 0x8000#16 [(0xFFFF, 0x80#8)] with irq := true }
    (s.nmi = true ∧ (s.pokes (trapPushes s.sp s.pc.toNat
      (statusByte (flagN s.p) (flagV s.p) true false (flagD s.p) (flagI s.p) (flagZ s.p) (flagC s.p)))).bind
      (fun t => t.peekWord 0xFFFA#16 0xFFFB#16) = some 0x9000#16) ∧
    (r.nmi = false ∧ r.irq = true ∧ flagI r.p = false ∧ (r.pokes (trapPushes r.sp r.pc.toNat
      (statusByte (flagN r.p) (flagV r.p) true false (flagD r.p) (flagI r.p) (flagZ r.p) (flagC r.p)))).bind
      (fun t => t.peekWord 0xFFFE#16 0xFFFF#16) = some 0x8000#16) := by decide

/-- Both latches true; and, for the later polls, IRQ alone with I set and with I clear. -/
theorem witness_NmiBeforeIrq :
    let s : State := { m1 with irq := true, nmi := true }
    s.nmi = true ∧ s.irq = true ∧ (nextOf (poll s)).isSome = true ∧
    (∃ u : State, u.nmi = false ∧ u.irq = true ∧ flagI u.p = true) ∧ ∃ u : State, u.nmi = false ∧ u.irq = true ∧ flagI u.p = false :=
  ⟨rfl, rfl, by decide, ⟨{ m1 with irq := true, p := 0x04#8 }, by decide⟩, { m1 with irq := true }, by decide⟩

theorem witness_MaskedRequestStaysPending :
    (m1.nmi = false ∧ m1.irq = false) ∧
    State.nmi { m1 with irq := true, p := 0x04#8 } = false ∧ flagI (State.p { m1 with irq := true, p := 0x04#8 }) = true := by decide

/-- After an interrupt entry and after a BRK, a handler that has loaded A, set flags and stored a byte elsewhere. -/
theorem witness_RtiUndoesTrapEntry :
    m1.NoCallbacks ∧ (∀ j < 3, m1.Shares (stackBelow m1.sp j) (stackBelow m1.sp j)) ∧
    (∀ j < 3, ∀ k < 3, j ≠ k → ¬ m1.Shares (stackBelow m1.sp j) (stackBelow m1.sp k)) ∧
    ∀ r ∈ [interruptEntry 0xFFFA#16 m1, exec .brk m1], ∃ t u : State,
      r = .next t ∧ memWrite 0x4000#16 0xAA#8 { t with a := 0x55#8, p := t.p ^^^ 0xCF#8 } = .next u ∧
      u.stores ≠ t.stores ∧ u.sp = t.sp ∧ flagB u.p = flagB t.p ∧ flagU u.p = flagU t.p ∧
      ∀ j < 3, u.peek (stackBelow m1.sp j) = t.peek (stackBelow m1.sp j) := by
  refine ⟨allRam_noCallbacks rfl, fun j _ => (allRam_shares rfl rfl _ _).mpr rfl, ?_, ?_⟩
  · intro j hj k hk hne
    rw [allRam_shares rfl rfl]
    revert j k
    decide
  · simp only [List.forall_mem_cons, List.not_mem_nil, false_implies, implies_true, and_true]
    exact ⟨⟨_, _, rfl, rfl, by decide, rfl, by decide, by decide, by decide⟩,
      _, _, rfl, rfl, by decide, rfl, by decide, by decide, by decide⟩

theorem m1_inv : m1.Inv := by unfold State.Inv; decide

/-- Plain steps; and K's machine, whose Reader raises an IRQ that the same step takes. -/
theorem witness_InvariantKept :
    (m1.Inv ∧ ∃ t, step m1 = .next t) ∧
    (bank 1 0 0 0x0200#16 [(0x0200, 0xAD#8), (0x0202, 0xB0#8)]).Inv ∧
    ∃ t, step (bank 1 0 0 0x0200#16 [(0x0200, 0xAD#8), (0x0202, 0xB0#8)]) = .next t :=
  ⟨⟨m1_inv, nextOf_isSome (by decide)⟩, by unfold State.Inv; decide, nextOf_isSome (by decide)⟩

/-- Each host move that answers from `m1`. -/
theorem witness_HostKeepsInvariant : m1.Inv ∧
    ∀ m ∈ [HostMove.reset, .writeA 1, .writeX 2, .writeY 3, .writeSp 4, .writePc 5, .writeP 6, .writeFlag 7 true, .writeIrq true, .raiseNmi,
      .readByte 0xFFFF, .writeByte 0xFFFF 1, .writeWord 0xFFFF 0x1234, .storeData 0xFFFF [1, 2], .setBit 0 7, .clearBit 0 0,
      .setMemoryConfiguration 0, .writeSharedStore ⟨0, 65535, 0⟩], ∃ t, hostMove m m1 = .next t := by
  refine ⟨m1_inv, ?_⟩
  have h : [HostMove.reset, .writeA 1, .writeX 2, .writeY 3, .writeSp 4, .writePc 5, .writeP 6, .writeFlag 7 true, .writeIrq true, .raiseNmi,
      .readByte 0xFFFF, .writeByte 0xFFFF 1, .writeWord 0xFFFF 0x1234, .storeData 0xFFFF [1, 2], .setBit 0 7, .clearBit 0 0,
      .setMemoryConfiguration 0, .writeSharedStore ⟨0, 65535, 0⟩].all (fun m => (nextOf (hostMove m m1)).isSome) = true := by decide
  intro m hm
  exact nextOf_isSome (List.all_eq_true.mp h m hm)

theorem witness_ParametersAndStoreLengthsFixed : ∃ t, step m1 = .next t := nextOf_isSome (by decide)

/-- Other live bits 4 and 5. -/
theorem witness_LiveBreakAndUnusedInert : (∃ t, step m1 = .next t) ∧ 0x39#8 &&& 0xCF#8 = m1.p &&& 0xCF#8 :=
  ⟨nextOf_isSome (by decide), by decide⟩

theorem witness_CountersNeverRead : ∃ t, step m1 = .next t := nextOf_isSome (by decide)

theorem witness_PlainMachineAlwaysSteps : m1.Plain ∧ m1.params.observer = none ∧ m1.params.unknownThrows = false :=
  ⟨start_plain _ _ _ _ _ _ _, rfl, rfl⟩

/-- An admitted machine that steps, one that stops by an unbound access, and one that stops by an unknown opcode. -/
theorem witness_AdmittedMachineStopsOnlyAsNamed :
    (m1.Inv ∧ m1.NoCallbacks ∧ ∃ t, step m1 = .next t) ∧
    ((smallRam 0x1000#16 []).Inv ∧ (smallRam 0x1000#16 []).NoCallbacks ∧ (faultOf (smallRam 0x1000#16 [])).isSome = true) ∧
    ∃ s : State, s.Inv ∧ s.NoCallbacks ∧ faultOf s = some (.unknownOpcode 0x02#8 0x0000#16 State.reset) := by
  refine ⟨⟨m1_inv, allRam_noCallbacks rfl, nextOf_isSome (by decide)⟩, ⟨by unfold State.Inv; decide, ⟨rfl, ?_⟩, by decide⟩,
    { start 0 0 0 0 0 0 [(0x0000, 0x02#8)] with params := { allRam with unknownThrows := true } },
    by unfold State.Inv; decide, ⟨rfl, ?_⟩, by decide⟩
  all_goals
    intro ops ho op h
    simp only [smallRam, allRam, List.mem_singleton] at ho
    subst ho
    simp only [List.mem_singleton] at h
    subst h
    exact ⟨nofun, nofun⟩

theorem witness_ResetLoadsTheVector : m1.peekWord 0xFFFC#16 0xFFFD#16 = some 0x0000#16 := by decide

/-- R361: the second evaluator stops the run with a reason of its own that varies with the state; it gives none where it continues. -/
theorem test_evaluator_reason :
    let asked : Evaluator := fun v => if v.now.pc = v.before.pc then ⟨true, none⟩ else ⟨false, some (toString v.now.es.instructions)⟩
    let s := start 0x00#8 0x00#8 0x00#8 0xFF#8 0x00#8 0x0205#16 [(0x0205, 0xEA#8)]
    (match execute [maxNumberOfInstructions 9, asked] 2 s with | .stopped k r t => some (k, r, t.pc) | _ => none) =
      some (1, some "1", 0x0206#16) := by decide

/-- Two evaluators of which the second stops the run and gives no reason; budgets 0 and 1 in instructions, 1 in cycles, each used up by
the first step. -/
theorem witness_RunStopsWhereAsked :
    (∃ t, execute [maxNumberOfInstructions 2, fun v => { continues := v.now.pc == v.before.pc }] 1 m1 = .stopped 1 none t) ∧
    (∃ k reason t, execute [maxNumberOfInstructions 0] 1 m1 = .stopped k reason t) ∧
    (∃ k reason t, execute [maxNumberOfInstructions 1] 1 m1 = .stopped k reason t) ∧
    ∃ k reason t, execute [cyclesRequested 1] 1 m1 = .stopped k reason t :=
  ⟨⟨_, rfl⟩, ⟨_, _, _, rfl⟩, ⟨_, _, _, rfl⟩, _, _, _, rfl⟩

theorem witness_SingleInstructionEntryPoints :
    m1.bytesAt m1.pc 2 = some [0xB1#8, 0x20#8] ∧ decode [0xB1#8, 0x20#8] = .instr (.ldaIndY 0x20#8) [] ∧
    ∃ t, exec (.ldaIndY 0x20#8) m1 = .next t :=
  ⟨by decide, by decide, nextOf_isSome (by decide)⟩

end Sys2Proof.Tests
end

section
/-! The shape of every instruction (R200, R240, R250, R270, R294), with what its effect leaves alone and the addresses its access list
writes: proofs about all 151 constructors split along these shapes instead of the constructors. -/

namespace Sys2Proof.Machine

/-- `t` differs from `s` in the CPU's registers and the counters only. -/
structure RegistersOnly (s t : State) : Prop where
  irq : t.irq = s.irq
  nmi : t.nmi = s.nmi
  cfg : t.cfg = s.cfg
  stores : t.stores = s.stores
  plat : t.plat = s.plat
  params : t.params = s.params

theorem RegistersOnly.refl (s : State) : RegistersOnly s s := ⟨rfl, rfl, rfl, rfl, rfl, rfl⟩

theorem RegistersOnly.trans {s t u : State} (h : RegistersOnly s t) (k : RegistersOnly t u) : RegistersOnly s u :=
  ⟨k.irq.trans h.irq, k.nmi.trans h.nmi, k.cfg.trans h.cfg, k.stores.trans h.stores, k.plat.trans h.plat, k.params.trans h.params⟩

/-- A change of registers and counters, written out. -/
theorem RegistersOnly.update (s : State) (a x y sp : Byte) (pc : Word) (p : Byte) (es : ExecState) :
    RegistersOnly s { s with a := a, x := x, y := y, sp := sp, pc := pc, p := p, es := es } := ⟨rfl, rfl, rfl, rfl, rfl, rfl⟩

theorem retire_registersOnly (i : Instr) (n : Nat) (s : State) : RegistersOnly s (retire i n s) := .update s ..

/-- The end of an instruction that is no control transfer (R153, R154). -/
theorem completed_registersOnly (i : Instr) (n : Nat) (s : State) : RegistersOnly s (retire i n (advance i s)) := .update s ..

theorem finish_registersOnly {i : Instr} {n : Nat} {s t : State} (h : finish i n s = .next t) : RegistersOnly s t := by
  injection h with h
  exact h ▸ completed_registersOnly i n s

/-- What an instruction's meaning is, in the shared shapes, and the addresses it writes. -/
inductive ShapeOf : Instr → Prop where
  | read {i : Instr} (src : Src) (f : Byte → State → State) (exec_eq : ∀ s, exec i s = readShape i src f s)
      (registers : ∀ v s, RegistersOnly s (f v s)) (cells : ∀ s, writtenCells i s = []) : ShapeOf i
  | store {i : Instr} (e : Ea) (r : State → Byte) (exec_eq : ∀ s, exec i s = storeShape i e (r s) s)
      (cells : ∀ s, writtenCells i s = (s.address e).toList) : ShapeOf i
  | modify {i : Instr} (e : Ea) (alu : Byte → Byte → Byte × Byte) (exec_eq : ∀ s, exec i s = modifyShape i e alu s)
      (cells : ∀ s, writtenCells i s = (s.address e).toList) : ShapeOf i
  | register {i : Instr} (f : State → State) (exec_eq : ∀ s, exec i s = registerShape i f s)
      (registers : ∀ s, RegistersOnly s (f s)) (cells : ∀ s, writtenCells i s = []) : ShapeOf i
  | branch {i : Instr} (cond : State → Bool) (d : Byte) (exec_eq : ∀ s, exec i s = branchShape i (cond s) d s)
      (cells : ∀ s, writtenCells i s = []) : ShapeOf i
  | push {i : Instr} (r : State → Byte) (exec_eq : ∀ s, exec i s = andThen (push (r s) s) (finish i 0))
      (cells : ∀ s, writtenCells i s = [stackBelow s.sp 0]) : ShapeOf i
  | pull {i : Instr} (f : Byte → State → State)
      (exec_eq : ∀ s, exec i s = andThen (pull s) fun (v, s1) => finish i 0 (f v s1))
      (registers : ∀ v s, RegistersOnly s (f v s)) (cells : ∀ s, writtenCells i s = []) : ShapeOf i
  | jmpAbs (w : Word) : ShapeOf (.jmpAbs w)
  | jmpInd (w : Word) : ShapeOf (.jmpInd w)
  | jsr (w : Word) : ShapeOf (.jsr w)
  | rts : ShapeOf .rts
  | brk : ShapeOf .brk
  | rti : ShapeOf .rti

/-- A store or read-modify-write writes its effective address. -/
theorem writtenCells_of_target {i : Instr} {e : Ea} (ht : targetOf i = some e)
    (hm : i.row.mnemonic ∈ [.sta, .stx, .sty, .inc, .dec, .asl, .lsr, .rol, .ror]) (s : State) :
    writtenCells i s = (s.address e).toList := by
  unfold writtenCells
  split <;> simp_all

theorem exec_shape (i : Instr) : ShapeOf i := by
  cases i with
  | ldaImm | ldaZp | ldaZpX | ldaAbs | ldaAbsX | ldaAbsY | ldaIndX | ldaIndY | ldxImm | ldxZp | ldxZpY | ldxAbs | ldxAbsY
  | ldyImm | ldyZp | ldyZpX | ldyAbs | ldyAbsX
  | andImm | andZp | andZpX | andAbs | andAbsX | andAbsY | andIndX | andIndY
  | oraImm | oraZp | oraZpX | oraAbs | oraAbsX | oraAbsY | oraIndX | oraIndY
  | eorImm | eorZp | eorZpX | eorAbs | eorAbsX | eorAbsY | eorIndX | eorIndY | bitZp | bitAbs
  | adcImm | adcZp | adcZpX | adcAbs | adcAbsX | adcAbsY | adcIndX | adcIndY
  | sbcImm | sbcZp | sbcZpX | sbcAbs | sbcAbsX | sbcAbsY | sbcIndX | sbcIndY
  | cmpImm | cmpZp | cmpZpX | cmpAbs | cmpAbsX | cmpAbsY | cmpIndX | cmpIndY
  | cpxImm | cpxZp | cpxAbs | cpyImm | cpyZp | cpyAbs =>
    refine .read _ _ (fun _ => by dsimp) ?_ fun _ => rfl
    exact fun _ s => .update s ..
  | staZp | staZpX | staAbs | staAbsX | staAbsY | staIndX | staIndY | stxZp | stxZpY | stxAbs | styZp | styZpX | styAbs =>
    refine .store _ _ (fun _ => by dsimp) (writtenCells_of_target ?_ ?_)
    · simp [targetOf, sourceOf, Instr.row, Instr.operand]
    · simp [Instr.row]
  | incZp | incZpX | incAbs | incAbsX | decZp | decZpX | decAbs | decAbsX | aslZp | aslZpX | aslAbs | aslAbsX
  | lsrZp | lsrZpX | lsrAbs | lsrAbsX | rolZp | rolZpX | rolAbs | rolAbsX | rorZp | rorZpX | rorAbs | rorAbsX =>
    refine .modify _ _ (fun _ => by dsimp) (writtenCells_of_target ?_ ?_)
    · simp [targetOf, sourceOf, Instr.row, Instr.operand]
    · simp [Instr.row]
  | tax | tay | txa | tya | tsx | txs | inx | iny | dex | dey | aslAcc | lsrAcc | rolAcc | rorAcc
  | clc | sec | cli | sei | cld | sed | clv | nop =>
    refine .register _ (fun _ => by dsimp) ?_ fun _ => rfl
    exact fun s => .update s ..
  | bcc | bcs | beq | bne | bmi | bpl | bvc | bvs => exact .branch _ _ (fun _ => by dsimp) fun _ => rfl
  | pha | php => exact .push _ (fun _ => by dsimp) fun _ => rfl
  | pla => exact .pull loadA exec_pla (fun _ s => .update s ..) fun _ => rfl
  | plp => exact .pull (fun v => status (pulledStatus v)) exec_plp (fun _ s => .update s ..) fun _ => rfl
  | jmpAbs w => exact .jmpAbs w
  | jmpInd w => exact .jmpInd w
  | jsr w => exact .jsr w
  | rts => exact .rts
  | brk => exact .brk
  | rti => exact .rti

end Sys2Proof.Machine
end

section
/-! What no step changes, callbacks and interrupts included: the parameters and the lengths of the stores (R5, R20, R39). -/

namespace Sys2Proof.Machine

/-- `t` has the parameters of `s` and stores of the same lengths. -/
structure SetupKept (s t : State) : Prop where
  params : t.params = s.params
  sizes : t.sizes = s.sizes

theorem SetupKept.trans {s t u : State} (h : SetupKept s t) (k : SetupKept t u) : SetupKept s u :=
  ⟨k.params.trans h.params, k.sizes.trans h.sizes⟩

theorem Kept.setup {s t : State} (h : Kept s t) : SetupKept s t := ⟨h.params, h.sizes⟩

theorem RegistersOnly.setup {s t : State} (h : RegistersOnly s t) : SetupKept s t :=
  ⟨h.params, congrArg (List.map Store.size) h.stores⟩

theorem readShape_setup {i : Instr} {src : Src} {f : Byte → State → State} (hf : ∀ v s, RegistersOnly s (f v s)) {s t : State}
    (h : readShape i src f s = .next t) : SetupKept s t := by
  obtain ⟨v, c, u, hu, rfl⟩ := readShape_next h
  exact (operand_kept hu).setup.trans ((hf v u).trans (completed_registersOnly ..)).setup

theorem storeShape_setup {i : Instr} {e : Ea} {v : Byte} {s t : State} (h : storeShape i e v s = .next t) : SetupKept s t := by
  obtain ⟨r, u, w, hu, hw, rfl⟩ := storeShape_next h
  exact ((resolve_kept hu).trans (memWrite_kept hw)).setup.trans (completed_registersOnly ..).setup

theorem modifyShape_setup {i : Instr} {e : Ea} {alu : Byte → Byte → Byte × Byte} {s t : State}
    (h : modifyShape i e alu s = .next t) : SetupKept s t := by
  obtain ⟨r, u, v, w, k, hu, hw, hk, rfl⟩ := modifyShape_next h
  have hread : Kept s w := (resolve_kept hu).trans (memRead_kept hw)
  have hwrite := (memWrite_kept hk).setup
  exact hread.setup.trans ⟨hwrite.params, hwrite.sizes⟩

theorem exec_setup {i : Instr} {s t : State} (h : exec i s = .next t) : SetupKept s t := by
  cases exec_shape i with
  | read src f exec_eq registers _ => exact readShape_setup registers (exec_eq s ▸ h)
  | store e r exec_eq _ => exact storeShape_setup (exec_eq s ▸ h)
  | modify e alu exec_eq _ => exact modifyShape_setup (exec_eq s ▸ h)
  | register f exec_eq registers _ =>
    exact ((registers s).trans (finish_registersOnly (exec_eq s ▸ h : registerShape i f s = .next t))).setup
  | branch cond d exec_eq _ =>
    rw [exec_eq, branchShape_next] at h
    injection h with h
    exact h ▸ ⟨rfl, rfl⟩
  | push r exec_eq _ =>
    obtain ⟨u, hu, h⟩ := andThen_eq_next.mp (exec_eq s ▸ h)
    have k := push_kept hu
    exact .trans ⟨k.params, k.sizes⟩ (finish_registersOnly h).setup
  | pull f exec_eq registers _ =>
    obtain ⟨⟨v, u⟩, hu, h⟩ := andThen_eq_next.mp (exec_eq s ▸ h)
    have k := pull_kept hu
    exact .trans ⟨k.params, k.sizes⟩ ((registers v u).trans (finish_registersOnly h)).setup
  | jmpAbs w => injection h with h; exact h ▸ ⟨rfl, rfl⟩
  | jmpInd w =>
    obtain ⟨⟨a, u⟩, hu, h⟩ := andThen_eq_next.mp h
    injection h with h
    have k := resolveIndirect_kept hu
    exact h ▸ ⟨k.params, k.sizes⟩
  | jsr w =>
    obtain ⟨u, hu, h⟩ := andThen_eq_next.mp h
    injection h with h
    have k := pushWord_kept hu
    exact h ▸ ⟨k.params, k.sizes⟩
  | rts =>
    obtain ⟨⟨a, u⟩, hu, h⟩ := andThen_eq_next.mp h
    injection h with h
    have k := pullWord_kept hu
    exact h ▸ ⟨k.params, k.sizes⟩
  | brk =>
    obtain ⟨u, hu, h⟩ := andThen_eq_next.mp h
    injection h with h
    have k := takeTrap_kept hu
    exact h ▸ ⟨k.params, k.sizes⟩
  | rti =>
    obtain ⟨u, hu, h⟩ := andThen_eq_next.mp h
    injection h with h
    obtain ⟨k, -⟩ := returnFromTrap_kept hu
    exact h ▸ ⟨k.params, k.sizes⟩

theorem interruptEntry_setup {vector : Word} {s t : State} (h : interruptEntry vector s = .next t) : SetupKept s t :=
  have k := interruptEntry_kept h
  ⟨k.params, k.sizes⟩

theorem poll_setup {s t : State} (h : poll s = .next t) : SetupKept s t := by
  obtain ⟨-, u, hu, rfl⟩ | ⟨-, -, -, u, hu, rfl⟩ | ⟨-, -, rfl⟩ := poll_cases h
  · exact .trans (interruptEntry_setup hu) ⟨rfl, rfl⟩
  · exact .trans (interruptEntry_setup hu) ⟨rfl, rfl⟩
  · exact ⟨rfl, rfl⟩

/-- A tolerant unknown opcode changes PC and the counters only (R344); a strict one gives no next state (R343). -/
theorem unknownOpcode_registersOnly {b0 : Byte} {s t : State} (h : unknownOpcode b0 s = .next t) : RegistersOnly s t := by
  unfold unknownOpcode at h
  split at h
  · cases h
  · injection h with h; exact h ▸ .update s ..

/-- All a step can do (R150): an unknown opcode, or a known instruction, the observer window and the poll. -/
theorem step_cases {s t : State} (h : step s = .next t) :
    (∃ b0 u, fetch s = .next (.unknown b0, u) ∧ unknownOpcode b0 u = .next t) ∨
    ∃ i u v w, fetch s = .next (.known i, u) ∧ exec i u = .next v ∧ observe (v.es.cycles - u.es.cycles) v = .next w ∧
      poll w = .next t := by
  obtain ⟨⟨f, u⟩, hf, h⟩ := andThen_eq_next.mp h
  cases f with
  | unknown b0 => exact .inl ⟨b0, u, hf, h⟩
  | known i =>
    obtain ⟨v, hv, h⟩ := andThen_eq_next.mp h
    obtain ⟨w, hw, h⟩ := andThen_eq_next.mp h
    exact .inr ⟨i, u, v, w, hf, hv, hw, h⟩

theorem step_setup {s t : State} (h : step s = .next t) : SetupKept s t := by
  obtain ⟨b0, u, hf, ht⟩ | ⟨i, u, v, w, hf, he, ho, hp⟩ := step_cases h
  · exact (fetch_kept hf).setup.trans (unknownOpcode_registersOnly ht).setup
  · exact (fetch_kept hf).setup.trans ((exec_setup he).trans ((observe_kept ho).setup.trans (poll_setup hp)))

/-- Settles O52: fetch, instruction, observer window and poll each keep the setup. -/
theorem parametersAndStoreLengthsFixed : Obligations.ParametersAndStoreLengthsFixed :=
  fun _ _ h => ⟨(step_setup h).params, (step_setup h).sizes⟩

end Sys2Proof.Machine
end

section
/-! Memory without callbacks (R11, R65, R66, R70, R71, R174): every access that answers is a plain read or a plain write, so an
instruction's access list says all that it does outside the registers. -/

namespace Sys2Proof.Machine

/-! ## Bindings without callbacks -/

/-- A binding is the initial one or what some operation put there (R63). -/
theorem foldl_binding {β : Type} (put : BindOp → Option β) (ops : List BindOp) (b : β) :
    ops.foldl (fun b op => (put op).getD b) b = b ∨ ∃ op ∈ ops, put op = some (ops.foldl (fun b op => (put op).getD b) b) := by
  induction ops generalizing b with
  | nil => exact .inl rfl
  | cons op ops ih =>
    rw [List.foldl_cons]
    obtain h | ⟨o, ho, h⟩ := ih ((put op).getD b)
    · rw [h]
      cases hp : put op with
      | none => exact .inl rfl
      | some x => exact .inr ⟨op, by simp, hp⟩
    · exact .inr ⟨o, by simp [ho], h⟩

/-- Only `mapReader` puts a Reader into a read table. -/
theorem readAt_reader {op : BindOp} {a f : Nat} (h : BindOp.readAt a op = some (.reader f)) : op = .mapReader a f := by
  cases op <;> grind [BindOp.readAt]

/-- Only `mapWriter` puts a Writer into a write table. -/
theorem writeAt_writer {op : BindOp} {a g : Nat} (h : BindOp.writeAt a op = some (.writer g)) : op = .mapWriter a g := by
  cases op <;> grind [BindOp.writeAt]

theorem noCallbacks_of_params {s t : State} (h : s.NoCallbacks) (hp : t.params = s.params) : t.NoCallbacks := by
  unfold State.NoCallbacks
  rwa [hp]

/-- The active configuration's operations bind no callback. -/
theorem noCallbacks_activeOps {s : State} (h : s.NoCallbacks) {op : BindOp} (ho : op ∈ activeOps s) :
    (∀ a f, op ≠ .mapReader a f) ∧ ∀ a g, op ≠ .mapWriter a g := by
  by_cases hc : s.cfg < s.params.configs.length
  · rw [activeOps, List.getD_eq_getElem _ _ hc] at ho
    exact h.2 _ (List.getElem_mem hc) op ho
  · rw [activeOps, List.getD_eq_default _ _ (Nat.not_lt.mp hc)] at ho
    cases ho

theorem readBinding_ne_reader {s : State} (h : s.NoCallbacks) (a : Word) (f : Nat) : readBinding s a ≠ .reader f := by
  intro e
  obtain hb | ⟨op, ho, hb⟩ := foldl_binding (BindOp.readAt a.toNat) (activeOps s) .unbound
  · cases hb.symm.trans e
  · exact (noCallbacks_activeOps h ho).1 _ _ (readAt_reader (hb.trans (congrArg some e)))

theorem writeBinding_ne_writer {s : State} (h : s.NoCallbacks) (a : Word) (g : Nat) : writeBinding s a ≠ .writer g := by
  intro e
  obtain hb | ⟨op, ho, hb⟩ := foldl_binding (BindOp.writeAt a.toNat) (activeOps s) .unbound
  · cases hb.symm.trans e
  · exact (noCallbacks_activeOps h ho).2 _ _ (writeAt_writer (hb.trans (congrArg some e)))

/-! ## Reads without callbacks change nothing but SP -/

/-- A read that answers is a plain read. -/
theorem memRead_noCallbacks {s t : State} (hn : s.NoCallbacks) {a : Word} {v : Byte} (h : memRead a s = .next (v, t)) :
    s.peek a = some v ∧ t = s := by
  unfold memRead at h
  split at h
  · cases h
  · next st k hb =>
    split at h
    · next w hw => injection h with h; injection h with hv h; exact ⟨by rw [peek_array hb, hw, hv], h.symm⟩
    · cases h
  · next f hb => exact absurd hb (readBinding_ne_reader hn a f)

/-- A write that answers is a plain write. -/
theorem memWrite_noCallbacks {s t : State} (hn : s.NoCallbacks) {a : Word} {v : Byte} (h : memWrite a v s = .next t) :
    s.poke a v = some t := by
  unfold memWrite at h
  split at h
  · cases h
  · next st k hb =>
    obtain ⟨ts, hts, rfl⟩ := writeStoreByte_next h
    simp [State.poke, hb, hts]
  · next hb => injection h with h; rw [← h]; simp [State.poke, hb]
  · next g hb => exact absurd hb (writeBinding_ne_writer hn a g)

/-- Two reads that answer are plain reads: the body of `zeroPagePointer`, `resolveIndirect` and `memReadWord`. -/
theorem readPair_noCallbacks {s t : State} (hn : s.NoCallbacks) {a b : Word} {w : Word}
    (h : (andThen (memRead a s) fun l => andThen (memRead b l.2) fun k => .next (joinWord k.1 l.1, k.2)) = .next (w, t)) :
    t = s ∧ ∃ lo hi, s.peek a = some lo ∧ s.peek b = some hi := by
  obtain ⟨⟨lo, u⟩, hu, hrest⟩ := andThen_eq_next.mp h
  obtain ⟨hlo, rfl⟩ := memRead_noCallbacks hn hu
  obtain ⟨⟨hi, v⟩, hv, hw⟩ := andThen_eq_next.mp hrest
  obtain ⟨hhi, rfl⟩ := memRead_noCallbacks hn hv
  injection hw with hw
  injection hw with _ ht
  exact ⟨ht.symm, lo, hi, hlo, hhi⟩

theorem memReadWord_noCallbacks {s t : State} (hn : s.NoCallbacks) {a w : Word} (h : memReadWord a s = .next (w, t)) : t = s :=
  (readPair_noCallbacks hn h).1

theorem resolveIndirect_noCallbacks {s t : State} (hn : s.NoCallbacks) {ptr w : Word}
    (h : resolveIndirect ptr s = .next (w, t)) : t = s :=
  (readPair_noCallbacks hn h).1

/-- A pointer that is read in page 0 is plain (R172, R173). -/
theorem pointer_of_zeroPagePointer {s t : State} (hn : s.NoCallbacks) {z : Byte} {w : Word}
    (h : zeroPagePointer z s = .next (w, t)) : ∃ n, s.pointer z.toNat = some n := by
  obtain ⟨-, lo, hi, hlo, hhi⟩ := readPair_noCallbacks hn h
  have e1 : zext16 z = BitVec.ofNat 16 (z.toNat % 256) := by rw [zext16_eq, Nat.mod_eq_of_lt z.isLt]
  have e2 : zext16 (z + 1#8) = BitVec.ofNat 16 ((z.toNat + 1) % 256) := by rw [zext16_eq]; congr 1
  rw [e1] at hlo
  rw [e2] at hhi
  simp [State.pointer, State.peekWord, hlo, hhi]

/-- A pointer's place counts modulo 256 (R172). -/
theorem pointer_add (s : State) (d x : Byte) : s.pointer (d + x).toNat = s.pointer (d.toNat + x.toNat) := by
  simp [State.pointer, BitVec.toNat_add]

theorem effective_of_resolve {s t : State} (hn : s.NoCallbacks) {e : Ea} {r : Resolved} (h : resolve e s = .next (r, t)) :
    ∃ n c, s.effective e = some (n, c) := by
  cases e with
  | indX d =>
    obtain ⟨⟨w, u⟩, hu, -⟩ := andThen_eq_next.mp h
    obtain ⟨n, hp⟩ := pointer_of_zeroPagePointer hn hu
    rw [pointer_add] at hp
    simp [State.effective, hp]
  | indY d =>
    obtain ⟨⟨w, u⟩, hu, -⟩ := andThen_eq_next.mp h
    obtain ⟨n, hp⟩ := pointer_of_zeroPagePointer hn hu
    simp [State.effective, hp]
  | zp | zpX | zpY | abs | absX | absY => exact ⟨_, _, rfl⟩

/-- A resolver that answers yields the spec's effective address (R160 to R173) and changes nothing. -/
theorem resolve_noCallbacks {s t : State} (hn : s.NoCallbacks) {e : Ea} {r : Resolved} (h : resolve e s = .next (r, t)) :
    s.address e = some r.ea ∧ t = s := by
  obtain ⟨n, c, he⟩ := effective_of_resolve hn h
  rw [resolve_of_effective he] at h
  injection h with h
  injection h with hr ht
  exact ⟨by simp [State.address, he, ← hr], ht.symm⟩

theorem operand_noCallbacks {s t : State} (hn : s.NoCallbacks) {src : Src} {v : Byte} {c : Bool}
    (h : operand src s = .next (v, c, t)) : t = s := by
  cases src with
  | imm w => injection h with h; injection h with _ h; injection h with _ h; exact h.symm
  | mem e =>
    obtain ⟨⟨r, u⟩, hu, hrest⟩ := andThen_eq_next.mp h
    obtain ⟨-, rfl⟩ := resolve_noCallbacks hn hu
    obtain ⟨⟨w, k⟩, hk, hv⟩ := andThen_eq_next.mp hrest
    obtain ⟨-, rfl⟩ := memRead_noCallbacks hn hk
    injection hv with hv
    injection hv with _ hv
    injection hv with _ ht
    exact ht.symm

theorem pull_noCallbacks {s t : State} (hn : s.NoCallbacks) {v : Byte} (h : pull s = .next (v, t)) : RegistersOnly s t := by
  obtain ⟨-, rfl⟩ := memRead_noCallbacks (s := { s with sp := s.sp + 1#8 }) hn h
  exact .update s ..

theorem pullWord_noCallbacks {s t : State} (hn : s.NoCallbacks) {w : Word} (h : pullWord s = .next (w, t)) : RegistersOnly s t := by
  obtain ⟨⟨lo, u⟩, hu, h⟩ := andThen_eq_next.mp h
  obtain ⟨⟨hi, v⟩, hv, h⟩ := andThen_eq_next.mp h
  have ku := pull_noCallbacks hn hu
  have kv := pull_noCallbacks (noCallbacks_of_params hn ku.params) hv
  injection h with h; injection h with _ h
  exact h ▸ ku.trans kv

theorem returnFromTrap_noCallbacks {s t : State} (hn : s.NoCallbacks) (h : returnFromTrap s = .next t) : RegistersOnly s t := by
  obtain ⟨⟨v, u⟩, hu, h⟩ := andThen_eq_next.mp h
  obtain ⟨⟨w, k⟩, hk, h⟩ := andThen_eq_next.mp h
  have ku := pull_noCallbacks hn hu
  have kk := pullWord_noCallbacks (s := { u with p := pulledStatus v u.p }) (noCallbacks_of_params hn ku.params) hk
  injection h with h
  exact h ▸ ku.trans ((RegistersOnly.update u ..).trans (kk.trans (.update k ..)))

/-! ## What an instruction writes -/

/-- `t` differs from `s` in the CPU's registers, the counters and the store bytes bound for writing at `cells`, and in nothing else. -/
structure WritesOnly (cells : List Word) (s t : State) : Prop where
  memory : SameBytesBut cells s t
  stores : cells = [] → t.stores = s.stores
  irq : t.irq = s.irq
  nmi : t.nmi = s.nmi
  cfg : t.cfg = s.cfg
  plat : t.plat = s.plat
  params : t.params = s.params

theorem RegistersOnly.writes {s t : State} (h : RegistersOnly s t) : WritesOnly [] s t where
  memory := .of_bytes h.params fun st i _ => by rw [h.stores]
  stores _ := h.stores
  irq := h.irq
  nmi := h.nmi
  cfg := h.cfg
  plat := h.plat
  params := h.params

theorem WritesOnly.trans {c d : List Word} {s t u : State} (h : WritesOnly c s t) (k : WritesOnly d t u) :
    WritesOnly (c ++ d) s u where
  memory := h.memory.trans k.memory h.params h.cfg k.params
  stores hcd := by
    obtain ⟨hc, hd⟩ := List.append_eq_nil_iff.mp hcd
    rw [k.stores hd, h.stores hc]
  irq := k.irq.trans h.irq
  nmi := k.nmi.trans h.nmi
  cfg := k.cfg.trans h.cfg
  plat := k.plat.trans h.plat
  params := k.params.trans h.params

/-- Registers changed after the writes. -/
theorem WritesOnly.thenRegisters {c : List Word} {s t u : State} (h : WritesOnly c s t) (k : RegistersOnly t u) : WritesOnly c s u := by
  simpa using h.trans k.writes

/-- Registers changed before the writes. -/
theorem RegistersOnly.thenWrites {c : List Word} {s t u : State} (h : RegistersOnly s t) (k : WritesOnly c t u) : WritesOnly c s u :=
  h.writes.trans k

theorem memWrite_writes {s t : State} (hn : s.NoCallbacks) {a : Word} {v : Byte} (h : memWrite a v s = .next t) :
    WritesOnly [a] s t := by
  have hp := memWrite_noCallbacks hn h
  have e := poke_stores hp
  exact ⟨poke_sameBytesBut hp, nofun, by rw [e], by rw [e], by rw [e], by rw [e], by rw [e]⟩

theorem stackBelow_sub_one (sp : Byte) : stackBelow (sp - 1#8) 0 = stackBelow sp 1 := by revert sp; decide
theorem stackBelow_sub_two (sp : Byte) : stackBelow (sp - 2#8) 0 = stackBelow sp 2 := by revert sp; decide

/-- A push writes the page-1 byte SP names (R180). -/
theorem push_writes {s t : State} (hn : s.NoCallbacks) {v : Byte} (h : push v s = .next t) :
    WritesOnly [stackBelow s.sp 0] s t := by
  obtain ⟨u, hu, rfl⟩ := push_next h
  rw [← stackAddress_eq]
  exact (memWrite_writes hn hu).thenRegisters (.update u ..)

/-- A word's push writes the two page-1 bytes from SP down (R182). -/
theorem pushWord_writes {s t : State} (hn : s.NoCallbacks) {w : Word} (h : pushWord w s = .next t) :
    WritesOnly [stackBelow s.sp 0, stackBelow s.sp 1] s t := by
  obtain ⟨u, hu, h⟩ := andThen_eq_next.mp h
  have ku := push_writes hn hu
  have kt := push_writes (noCallbacks_of_params hn ku.params) h
  rw [(push_kept hu).sp, stackBelow_sub_one] at kt
  exact ku.trans kt

/-- A trap writes the three page-1 bytes from SP down (R336). -/
theorem takeTrap_writes {s t : State} (hn : s.NoCallbacks) {ret vector : Word} {copy : Byte}
    (h : takeTrap ret copy vector s = .next t) : WritesOnly (trapCells s.sp) s t := by
  obtain ⟨u, hu, h⟩ := andThen_eq_next.mp h
  obtain ⟨k, hk, h⟩ := andThen_eq_next.mp h
  obtain ⟨⟨w, l⟩, hl, h⟩ := andThen_eq_next.mp h
  have ku := pushWord_writes hn hu
  have nu := noCallbacks_of_params hn ku.params
  have kk := push_writes nu hk
  have nk := noCallbacks_of_params nu kk.params
  rw [(pushWord_kept hu).sp, stackBelow_sub_two] at kk
  have e := memReadWord_noCallbacks (s := { k with p := setI true k.p }) nk hl
  injection h with h
  subst h e
  exact (ku.trans kk).thenRegisters (.update k ..)

theorem readShape_writes {s t : State} (hn : s.NoCallbacks) {i : Instr} {src : Src} {f : Byte → State → State}
    (hf : ∀ v s, RegistersOnly s (f v s)) (h : readShape i src f s = .next t) : WritesOnly [] s t := by
  obtain ⟨v, c, u, hu, rfl⟩ := readShape_next h
  obtain rfl := operand_noCallbacks hn hu
  exact ((hf v u).trans (completed_registersOnly ..)).writes

theorem storeShape_writes {s t : State} (hn : s.NoCallbacks) {i : Instr} {e : Ea} {v : Byte} (h : storeShape i e v s = .next t) :
    WritesOnly (s.address e).toList s t := by
  obtain ⟨r, u, w, hu, hw, rfl⟩ := storeShape_next h
  obtain ⟨hea, rfl⟩ := resolve_noCallbacks hn hu
  rw [hea]
  exact (memWrite_writes hn hw).thenRegisters (completed_registersOnly ..)

theorem modifyShape_writes {s t : State} (hn : s.NoCallbacks) {i : Instr} {e : Ea} {alu : Byte → Byte → Byte × Byte}
    (h : modifyShape i e alu s = .next t) : WritesOnly (s.address e).toList s t := by
  obtain ⟨r, u, v, w, k, hu, hw, hk, rfl⟩ := modifyShape_next h
  obtain ⟨hea, rfl⟩ := resolve_noCallbacks hn hu
  obtain ⟨-, rfl⟩ := memRead_noCallbacks hn hw
  have hwrite := memWrite_writes (s := { w with p := setC (flagC (alu w.p v).2) w.p }) hn hk
  rw [hea]
  exact (RegistersOnly.update w ..).thenWrites (hwrite.thenRegisters (.update k ..))

/-- Without callbacks an instruction writes the addresses of its access list and nothing else outside the registers. -/
theorem exec_writes {s t : State} (hn : s.NoCallbacks) {i : Instr} (h : exec i s = .next t) :
    WritesOnly (writtenCells i s) s t := by
  cases exec_shape i with
  | read src f exec_eq registers cells => exact cells s ▸ readShape_writes hn registers (exec_eq s ▸ h)
  | store e r exec_eq cells => exact cells s ▸ storeShape_writes hn (exec_eq s ▸ h)
  | modify e alu exec_eq cells => exact cells s ▸ modifyShape_writes hn (exec_eq s ▸ h)
  | register f exec_eq registers cells =>
    rw [cells]
    exact ((registers s).trans (finish_registersOnly (exec_eq s ▸ h : registerShape i f s = .next t))).writes
  | branch cond d exec_eq cells =>
    rw [exec_eq, branchShape_next] at h
    injection h with h
    rw [cells, ← h]
    exact (RegistersOnly.update s ..).writes
  | push r exec_eq cells =>
    obtain ⟨u, hu, h⟩ := andThen_eq_next.mp (exec_eq s ▸ h)
    exact cells s ▸ (push_writes hn hu).thenRegisters (finish_registersOnly h)
  | pull f exec_eq registers cells =>
    obtain ⟨⟨v, u⟩, hu, h⟩ := andThen_eq_next.mp (exec_eq s ▸ h)
    rw [cells]
    exact ((pull_noCallbacks hn hu).trans ((registers v u).trans (finish_registersOnly h))).writes
  | jmpAbs w =>
    injection h with h
    exact h ▸ (RegistersOnly.update s ..).writes
  | jmpInd w =>
    obtain ⟨⟨a, u⟩, hu, ht⟩ := andThen_eq_next.mp h
    obtain rfl := resolveIndirect_noCallbacks hn hu
    injection ht with ht
    exact ht ▸ (RegistersOnly.update u ..).writes
  | jsr w =>
    obtain ⟨u, hu, h⟩ := andThen_eq_next.mp h
    injection h with h
    exact h ▸ (pushWord_writes hn hu).thenRegisters (.update u ..)
  | rts =>
    obtain ⟨⟨a, u⟩, hu, h⟩ := andThen_eq_next.mp h
    injection h with h
    exact h ▸ ((pullWord_noCallbacks hn hu).trans (.update u ..)).writes
  | brk =>
    obtain ⟨u, hu, h⟩ := andThen_eq_next.mp h
    injection h with h
    exact h ▸ (takeTrap_writes hn hu).thenRegisters (retire_registersOnly _ _ u)
  | rti =>
    obtain ⟨u, hu, h⟩ := andThen_eq_next.mp h
    injection h with h
    exact h ▸ ((returnFromTrap_noCallbacks hn hu).trans (retire_registersOnly _ _ u)).writes

/-- Settles O38: an instruction's access list, computed before it runs, is all that it writes. -/
theorem memoryFrame : Obligations.MemoryFrame := by
  intro i s t hn h
  obtain ⟨memory, stores, irq, nmi, cfg, plat, -⟩ := exec_writes hn h
  exact ⟨memory, stores, irq, nmi, cfg, plat⟩

end Sys2Proof.Machine
end

section
/-! What every instruction does to the CPU's registers, said once by mnemonic (`registerEffect`; files 41 to 47), and that an instruction
that answers does just that, counts itself and moves PC (R24, R153, R154): the facts about single registers and flags follow by mnemonic,
callbacks included. -/

namespace Sys2Proof.Machine

/-! ## The effect of a mnemonic -/

/-- ASL, LSR, ROL, ROR: on A in Accumulator mode, else on memory, where P alone changes (R277 to R280). -/
def shiftEffect (alu : Byte → Byte → Byte × Byte) (mode : Mode) (v : Byte) (s : State) : State :=
  if mode = .acc then modifyA alu s else status (fun p => (alu p v).2) s

/-- What an instruction of mnemonic `m` does to A, X, Y, SP and P, where `v` is the byte it read as its operand or pulled as a value or
status. -/
def registerEffect (m : Mnemonic) (mode : Mode) (v : Byte) (s : State) : State :=
  match m with
  | .lda => loadA v s
  | .ldx => loadX v s
  | .ldy => loadY v s
  | .tax => loadX s.a s
  | .tay => loadY s.a s
  | .txa => loadA s.x s
  | .tya => loadA s.y s
  | .tsx => loadX s.sp s
  | .txs => { s with sp := s.x }
  | .pha | .php => { s with sp := s.sp - 1#8 }
  | .pla => loadA v { s with sp := s.sp + 1#8 }
  | .plp => status (pulledStatus v) { s with sp := s.sp + 1#8 }
  | .and => accumulate andAlu v s
  | .ora => accumulate oraAlu v s
  | .eor => accumulate eorAlu v s
  | .bit => status (fun p => bitAlu p s.a v) s
  | .adc => accumulate adcAlu v s
  | .sbc => accumulate sbcAlu v s
  | .cmp => status (fun p => compareAlu p s.a v) s
  | .cpx => status (fun p => compareAlu p s.x v) s
  | .cpy => status (fun p => compareAlu p s.y v) s
  | .inc => status (fun p => (incAlu p v).2) s
  | .dec => status (fun p => (decAlu p v).2) s
  | .inx => modifyX incAlu s
  | .iny => modifyY incAlu s
  | .dex => modifyX decAlu s
  | .dey => modifyY decAlu s
  | .asl => shiftEffect aslAlu mode v s
  | .lsr => shiftEffect lsrAlu mode v s
  | .rol => shiftEffect rolAlu mode v s
  | .ror => shiftEffect rorAlu mode v s
  | .clc => status (setC false) s
  | .sec => status (setC true) s
  | .cli => status (setI false) s
  | .sei => status (setI true) s
  | .cld => status (setD false) s
  | .sed => status (setD true) s
  | .clv => status (setV false) s
  | .jsr => { s with sp := s.sp - 2#8 }
  | .rts => { s with sp := s.sp + 2#8 }
  | .brk => { s with sp := s.sp - 3#8, p := setI true s.p }
  | .rti => { s with sp := s.sp + 3#8, p := pulledStatus v s.p }
  | .sta | .stx | .sty | .jmp | .bcc | .bcs | .beq | .bne | .bmi | .bpl | .bvc | .bvs | .nop => s

/-- The effect of an instruction's own mnemonic and mode. -/
abbrev effectOf (i : Instr) : Byte → State → State := registerEffect i.row.mnemonic i.row.mode

/-- An effect changes A, X, Y, SP and P only. -/
theorem registerEffect_eq (m : Mnemonic) (mode : Mode) (v : Byte) (s : State) :
    registerEffect m mode v s =
      { s with
        a := (registerEffect m mode v s).a
        x := (registerEffect m mode v s).x
        y := (registerEffect m mode v s).y
        sp := (registerEffect m mode v s).sp
        p := (registerEffect m mode v s).p } := by
  cases m with
  | asl | lsr | rol | ror => dsimp only [registerEffect]; unfold shiftEffect; split <;> rfl
  | _ => rfl

theorem registerEffect_registersOnly (m : Mnemonic) (mode : Mode) (v : Byte) (s : State) :
    RegistersOnly s (registerEffect m mode v s) := by
  rw [registerEffect_eq]
  exact .update s ..

@[simp] theorem registerEffect_pc (m : Mnemonic) (mode : Mode) (v : Byte) (s : State) : (registerEffect m mode v s).pc = s.pc := by
  rw [registerEffect_eq]

@[simp] theorem registerEffect_es (m : Mnemonic) (mode : Mode) (v : Byte) (s : State) : (registerEffect m mode v s).es = s.es := by
  rw [registerEffect_eq]

/-- An effect looks at registers only, so it does not see what an access changed. -/
theorem Kept.effect {s u : State} (k : Kept s u) (m : Mnemonic) (mode : Mode) (v : Byte) :
    Kept (registerEffect m mode v s) (registerEffect m mode v u) := by
  have e : registerEffect m mode v u =
      { u with
        a := (registerEffect m mode v s).a
        x := (registerEffect m mode v s).x
        y := (registerEffect m mode v s).y
        sp := (registerEffect m mode v s).sp
        p := (registerEffect m mode v s).p } := by
    cases m with
    | asl | lsr | rol | ror =>
      dsimp only [registerEffect]
      unfold shiftEffect
      split <;> simp [modifyA, status, ← k.a, ← k.x, ← k.y, ← k.sp, ← k.p]
    | _ => simp [registerEffect, loadA, loadX, loadY, accumulate, modifyX, modifyY, status, ← k.a, ← k.x, ← k.y, ← k.sp, ← k.p]
  rw [e, registerEffect_eq m mode v s]
  exact ⟨rfl, rfl, rfl, rfl, k.pc, rfl, k.es, k.params, k.sizes, k.memoryWf, k.cfg⟩

end Sys2Proof.Machine
end

section
/-! What the machine does not see (R30, R32, R41): a change of P that concerns the live bits 4 and 5 alone, and counters that stand higher.
Every operation that answers goes on as before and carries the change along. -/

namespace Sys2Proof.Machine

/-- `s` with P changed by `f`, and `c` cycles and `k` instructions more on the counters. -/
def State.recast (f : Byte → Byte) (c k : Nat) (s : State) : State :=
  { s with p := f s.p, es := { s.es with cycles := s.es.cycles + c, instructions := s.es.instructions + k } }

/-! ## Accesses look neither at P nor at the counters -/

section
variable {f : Byte → Byte} {c k : Nat} {s t : State}

theorem writeStoreByte_recast {w : StoreWrite} (h : writeStoreByte w s = .next t) :
    writeStoreByte w (s.recast f c k) = .next (t.recast f c k) := by
  obtain ⟨ts, hts, rfl⟩ := writeStoreByte_next h
  have hts' : storeWrite? (s.recast f c k).stores w.store w.index w.value = some ts := hts
  simp only [writeStoreByte, hts']
  rfl

theorem writeStoreBytes_recast {ws : List StoreWrite} (h : writeStoreBytes ws s = .next t) :
    writeStoreBytes ws (s.recast f c k) = .next (t.recast f c k) := by
  induction ws generalizing s with
  | nil => cases h; rfl
  | cons w ws ih =>
    obtain ⟨u, hu, h⟩ := andThen_eq_next.mp h
    exact andThen_eq_next.mpr ⟨_, writeStoreByte_recast hu, ih h⟩

theorem switchIfAsked_recast {i : Option Int} (h : switchIfAsked i s = .next t) :
    switchIfAsked i (s.recast f c k) = .next (t.recast f c k) := by
  cases i with
  | none => cases h; rfl
  | some i =>
    obtain ⟨h0, h1, rfl⟩ := setMemoryConfiguration_next h
    exact if_pos ⟨h0, h1⟩

theorem applyEffects_recast {e : Effects} (h : applyEffects e s = .next t) :
    applyEffects e (s.recast f c k) = .next (t.recast f c k) := by
  obtain ⟨u, hu, h⟩ := andThen_eq_next.mp h
  obtain ⟨v, hv, h⟩ := andThen_eq_next.mp h
  cases h
  exact andThen_eq_next.mpr ⟨_, writeStoreBytes_recast hu, andThen_eq_next.mpr ⟨_, switchIfAsked_recast hv, rfl⟩⟩

theorem memRead_recast {a : Word} {v : Byte} (h : memRead a s = .next (v, t)) :
    memRead a (s.recast f c k) = .next (v, t.recast f c k) := by
  unfold memRead at h
  split at h
  · cases h
  · next st i hr =>
    have hr' : readBinding (s.recast f c k) a = .array st i := hr
    split at h
    · next w hw =>
      cases h
      have hw' : storeByte? (s.recast f c k).stores st i = some v := hw
      simp only [memRead, hr', hw']
    · cases h
  · next r hr =>
    have hr' : readBinding (s.recast f c k) a = .reader r := hr
    obtain ⟨u, hu, h⟩ := andThen_eq_next.mp h
    cases h
    simp only [memRead, hr']
    exact andThen_eq_next.mpr ⟨_, applyEffects_recast hu, rfl⟩

theorem memWrite_recast {a : Word} {v : Byte} (h : memWrite a v s = .next t) :
    memWrite a v (s.recast f c k) = .next (t.recast f c k) := by
  have hb : writeBinding (s.recast f c k) a = writeBinding s a := rfl
  unfold memWrite at h ⊢
  rw [hb]
  split at h
  · cases h
  · exact writeStoreByte_recast h
  · injection h with h; rw [h]
  · exact applyEffects_recast h

/-- Two reads in a row: the body of `memReadWord`, `zeroPagePointer` and `resolveIndirect`. -/
theorem readPair_recast {a b w : Word}
    (h : (andThen (memRead a s) fun l => andThen (memRead b l.2) fun r => .next (joinWord r.1 l.1, r.2)) = .next (w, t)) :
    (andThen (memRead a (s.recast f c k)) fun l => andThen (memRead b l.2) fun r => .next (joinWord r.1 l.1, r.2)) =
      .next (w, t.recast f c k) := by
  obtain ⟨⟨lo, u⟩, hu, h⟩ := andThen_eq_next.mp h
  obtain ⟨⟨hi, v⟩, hv, h⟩ := andThen_eq_next.mp h
  cases h
  exact andThen_eq_next.mpr ⟨_, memRead_recast hu, andThen_eq_next.mpr ⟨_, memRead_recast hv, rfl⟩⟩

theorem memReadWord_recast {a w : Word} (h : memReadWord a s = .next (w, t)) :
    memReadWord a (s.recast f c k) = .next (w, t.recast f c k) :=
  readPair_recast h

theorem resolveIndirect_recast {ptr w : Word} (h : resolveIndirect ptr s = .next (w, t)) :
    resolveIndirect ptr (s.recast f c k) = .next (w, t.recast f c k) :=
  readPair_recast h

theorem zeroPagePointer_recast {z : Byte} {w : Word} (h : zeroPagePointer z s = .next (w, t)) :
    zeroPagePointer z (s.recast f c k) = .next (w, t.recast f c k) :=
  readPair_recast h

theorem resolve_recast {e : Ea} {r : Resolved} (h : resolve e s = .next (r, t)) :
    resolve e (s.recast f c k) = .next (r, t.recast f c k) := by
  cases e with
  | indX d | indY d =>
    obtain ⟨⟨w, u⟩, hu, h⟩ := andThen_eq_next.mp h
    cases h
    exact andThen_eq_next.mpr ⟨_, zeroPagePointer_recast hu, rfl⟩
  | zp | zpX | zpY | abs | absX | absY => cases h; rfl

theorem operand_recast {src : Src} {v : Byte} {x : Bool} (h : operand src s = .next (v, x, t)) :
    operand src (s.recast f c k) = .next (v, x, t.recast f c k) := by
  cases src with
  | imm w => cases h; rfl
  | mem e =>
    obtain ⟨⟨r, u⟩, hu, h⟩ := andThen_eq_next.mp h
    obtain ⟨⟨w, z⟩, hz, h⟩ := andThen_eq_next.mp h
    cases h
    exact andThen_eq_next.mpr ⟨_, resolve_recast hu, andThen_eq_next.mpr ⟨_, memRead_recast hz, rfl⟩⟩

theorem push_recast {v : Byte} (h : push v s = .next t) : push v (s.recast f c k) = .next (t.recast f c k) := by
  obtain ⟨u, hu, h⟩ := andThen_eq_next.mp h
  cases h
  exact andThen_eq_next.mpr ⟨_, memWrite_recast hu, rfl⟩

theorem pull_recast {v : Byte} (h : pull s = .next (v, t)) : pull (s.recast f c k) = .next (v, t.recast f c k) :=
  memRead_recast (s := { s with sp := s.sp + 1#8 }) h

theorem pushWord_recast {w : Word} (h : pushWord w s = .next t) : pushWord w (s.recast f c k) = .next (t.recast f c k) := by
  obtain ⟨u, hu, h⟩ := andThen_eq_next.mp h
  exact andThen_eq_next.mpr ⟨_, push_recast hu, push_recast h⟩

theorem pullWord_recast {w : Word} (h : pullWord s = .next (w, t)) : pullWord (s.recast f c k) = .next (w, t.recast f c k) := by
  obtain ⟨⟨lo, u⟩, hu, h⟩ := andThen_eq_next.mp h
  obtain ⟨⟨hi, v⟩, hv, h⟩ := andThen_eq_next.mp h
  cases h
  exact andThen_eq_next.mpr ⟨_, pull_recast hu, andThen_eq_next.mpr ⟨_, pull_recast hv, rfl⟩⟩

theorem fetchBytes_recast {n : Nat} {a : Word} {bs : List Byte} (h : fetchBytes n a s = .next (bs, t)) :
    fetchBytes n a (s.recast f c k) = .next (bs, t.recast f c k) := by
  induction n generalizing a bs s t with
  | zero => cases h; rfl
  | succ n ih =>
    obtain ⟨⟨b, u⟩, hu, h⟩ := andThen_eq_next.mp h
    obtain ⟨⟨bs', v⟩, hv, h⟩ := andThen_eq_next.mp h
    cases h
    exact andThen_eq_next.mpr ⟨_, memRead_recast hu, andThen_eq_next.mpr ⟨_, ih hv, rfl⟩⟩

theorem fetch_recast {x : Fetched} (h : fetch s = .next (x, t)) : fetch (s.recast f c k) = .next (x, t.recast f c k) := by
  obtain ⟨⟨b0, u⟩, hu, h⟩ := andThen_eq_next.mp h
  refine andThen_eq_next.mpr ⟨_, memRead_recast hu, ?_⟩
  dsimp only at h ⊢
  split at h
  · cases h; rfl
  · obtain ⟨⟨bs, v⟩, hv, h⟩ := andThen_eq_next.mp h
    refine andThen_eq_next.mpr ⟨_, fetchBytes_recast hv, ?_⟩
    dsimp only at h ⊢
    split at h <;> · cases h; rfl

theorem observe_recast {n : Nat} (h : observe n s = .next t) : observe n (s.recast f c k) = .next (t.recast f c k) := by
  have ho : (s.recast f c k).params.observer = s.params.observer := rfl
  unfold observe at h ⊢
  rw [ho]
  split at h
  · injection h with h; rw [h]
  · obtain ⟨u, hu, h⟩ := andThen_eq_next.mp h
    cases h
    exact andThen_eq_next.mpr ⟨_, writeStoreBytes_recast hu, rfl⟩

theorem unknownOpcode_recast {b0 : Byte} (h : unknownOpcode b0 s = .next t) :
    unknownOpcode b0 (s.recast f c k) = .next (t.recast f c k) := by
  have hp : (s.recast f c k).params.unknownThrows = s.params.unknownThrows := rfl
  unfold unknownOpcode at h ⊢
  rw [hp]
  split at h
  · cases h
  · next ht =>
    cases h
    simp [State.recast, ht, Nat.add_right_comm]

theorem retire_recast (i : Instr) (n : Nat) : retire i n (s.recast f c k) = (retire i n s).recast f c k := by
  simp [retire, State.recast, Nat.add_right_comm]

/-- The end of an instruction, its bookkeeping included. -/
theorem finish_recast {i : Instr} {n : Nat} (h : finish i n s = .next t) :
    finish i n (s.recast f c k) = .next (t.recast f c k) := by
  cases h
  exact congrArg Host.Outcome.next (retire_recast (s := advance i s) i n)

end

/-! ## The live bits and the operations on P -/

section
variable (v p : Byte) (b : Bool)

theorem pulledStatus_self : pulledStatus p p = p := by rw [pulledStatus_eq, statusByte_flags]

@[simp] theorem flagC_pulledStatus : flagC (pulledStatus v p) = flagC v := by rw [pulledStatus_eq, flagC_statusByte]
@[simp] theorem flagZ_pulledStatus : flagZ (pulledStatus v p) = flagZ v := by rw [pulledStatus_eq, flagZ_statusByte]
@[simp] theorem flagI_pulledStatus : flagI (pulledStatus v p) = flagI v := by rw [pulledStatus_eq, flagI_statusByte]
@[simp] theorem flagD_pulledStatus : flagD (pulledStatus v p) = flagD v := by rw [pulledStatus_eq, flagD_statusByte]
@[simp] theorem flagV_pulledStatus : flagV (pulledStatus v p) = flagV v := by rw [pulledStatus_eq, flagV_statusByte]
@[simp] theorem flagN_pulledStatus : flagN (pulledStatus v p) = flagN v := by rw [pulledStatus_eq, flagN_statusByte]
@[simp] theorem flagB_pulledStatus : flagB (pulledStatus v p) = flagB p := by rw [pulledStatus_eq, flagB_statusByte]
@[simp] theorem flagU_pulledStatus : flagU (pulledStatus v p) = flagU p := by rw [pulledStatus_eq, flagU_statusByte]

/-- Setting a bit other than 4 and 5 leaves those two as they are. -/
theorem putFlag_pulledStatus {mask : Byte} (h : mask &&& 0x30#8 = 0x00#8) :
    putFlag mask b (pulledStatus v p) = pulledStatus (putFlag mask b v) p := by
  have h4 : mask[4] = false := by simpa using congrArg (·.getLsbD 4) h
  have h5 : mask[5] = false := by simpa using congrArg (·.getLsbD 5) h
  apply BitVec.eq_of_getLsbD_eq
  intro k hk
  cases b <;> interval_cases k <;> simp [putFlag, pulledStatus, h4, h5]

@[simp] theorem setC_pulledStatus : setC b (pulledStatus v p) = pulledStatus (setC b v) p := putFlag_pulledStatus v p b rfl
@[simp] theorem setZ_pulledStatus : setZ b (pulledStatus v p) = pulledStatus (setZ b v) p := putFlag_pulledStatus v p b rfl
@[simp] theorem setI_pulledStatus : setI b (pulledStatus v p) = pulledStatus (setI b v) p := putFlag_pulledStatus v p b rfl
@[simp] theorem setD_pulledStatus : setD b (pulledStatus v p) = pulledStatus (setD b v) p := putFlag_pulledStatus v p b rfl
@[simp] theorem setV_pulledStatus : setV b (pulledStatus v p) = pulledStatus (setV b v) p := putFlag_pulledStatus v p b rfl
@[simp] theorem setN_pulledStatus : setN b (pulledStatus v p) = pulledStatus (setN b v) p := putFlag_pulledStatus v p b rfl
@[simp] theorem setNZ_pulledStatus (r : Byte) : setNZ r (pulledStatus v p) = pulledStatus (setNZ r v) p := by simp [setNZ]

theorem pulledStatus_pulledStatus (w : Byte) : pulledStatus w (pulledStatus v p) = pulledStatus w p := by
  simp only [pulledStatus_eq w, flagB_pulledStatus, flagU_pulledStatus]

theorem pulledStatus_of_pulledStatus (w : Byte) : pulledStatus (pulledStatus w v) p = pulledStatus w p := by
  simp only [pulledStatus_eq _ p, flagN_pulledStatus, flagV_pulledStatus, flagD_pulledStatus, flagI_pulledStatus,
    flagZ_pulledStatus, flagC_pulledStatus]

@[simp] theorem brokenCopy_pulledStatus : brokenCopy (pulledStatus v p) = brokenCopy v := by simp [brokenCopy_eq]
@[simp] theorem interruptCopy_pulledStatus : interruptCopy (pulledStatus v p) = interruptCopy v := by simp [interruptCopy_eq]

end

/-- `g` neither reads nor writes the live bits 4 and 5. -/
def StatusNeutral (g : Byte → Byte) : Prop := ∀ v p, g (pulledStatus v p) = pulledStatus (g v) p

/-- An operation of the ALU on P that neither reads nor writes the live bits 4 and 5. -/
def AluNeutral (alu : Byte → Byte × Byte) : Prop := ∀ v p, alu (pulledStatus v p) = ((alu v).1, pulledStatus (alu v).2 p)

theorem AluNeutral.status {alu : Byte → Byte × Byte} (h : AluNeutral alu) : StatusNeutral fun p => (alu p).2 :=
  fun v p => congrArg Prod.snd (h v p)

section
variable (a m : Byte)

theorem setNZ_neutral : StatusNeutral (setNZ m) := fun v p => setNZ_pulledStatus v p m
theorem pulledStatus_neutral : StatusNeutral (pulledStatus m) := fun v p => by
  rw [pulledStatus_pulledStatus, pulledStatus_of_pulledStatus]
theorem bitAlu_neutral : StatusNeutral (bitAlu · a m) := fun v p => by simp [bitAlu]
theorem compareAlu_neutral : StatusNeutral (compareAlu · a m) := fun v p => by simp [compareAlu]
theorem andAlu_neutral : AluNeutral (andAlu · a m) := fun v p => by simp [andAlu]
theorem oraAlu_neutral : AluNeutral (oraAlu · a m) := fun v p => by simp [oraAlu]
theorem eorAlu_neutral : AluNeutral (eorAlu · a m) := fun v p => by simp [eorAlu]
theorem adcAlu_neutral : AluNeutral (adcAlu · a m) := fun v p => by
  by_cases h : flagD v <;> simp [adcAlu, adcBinary, adcDecimal, h]
theorem sbcAlu_neutral : AluNeutral (sbcAlu · a m) := fun v p => by
  by_cases h : flagD v <;> simp [sbcAlu, sbcBinary, sbcDecimalValue, h]
theorem incAlu_neutral : AluNeutral (incAlu · m) := fun v p => by simp [incAlu]
theorem decAlu_neutral : AluNeutral (decAlu · m) := fun v p => by simp [decAlu]
theorem aslAlu_neutral : AluNeutral (aslAlu · m) := fun v p => by simp [aslAlu]
theorem lsrAlu_neutral : AluNeutral (lsrAlu · m) := fun v p => by simp [lsrAlu]
theorem rolAlu_neutral : AluNeutral (rolAlu · m) := fun v p => by simp [rolAlu]
theorem rorAlu_neutral : AluNeutral (rorAlu · m) := fun v p => by simp [rorAlu]

end

/-! ## A change of P that no instruction sees -/

/-- `f` changes bits 4 and 5 of P alone, and takes them alone into account: PLP's and RTI's loading of the other six (R30) makes no
difference to it. -/
def Unseen (f : Byte → Byte) : Prop := ∀ v p, f (pulledStatus v p) = pulledStatus v (f p)

/-- Other values for bits 4 and 5. -/
theorem unseen_pulledStatus (q : Byte) : Unseen (pulledStatus · q) := fun v p => by
  dsimp only
  rw [pulledStatus_pulledStatus, pulledStatus_of_pulledStatus]

section
variable {f : Byte → Byte} (hf : Unseen f)
include hf

theorem Unseen.eq_pulledStatus (p : Byte) : f p = pulledStatus p (f p) := by rw [← hf, pulledStatus_self]

theorem Unseen.comm {g : Byte → Byte} (hg : StatusNeutral g) (p : Byte) : g (f p) = f (g p) :=
  calc g (f p) = g (pulledStatus p (f p)) := congrArg g (hf.eq_pulledStatus p)
    _ = pulledStatus (g p) (f p) := hg p (f p)
    _ = f (pulledStatus (g p) p) := (hf (g p) p).symm
    _ = f (g (pulledStatus p p)) := congrArg f (hg p p).symm
    _ = f (g p) := by rw [pulledStatus_self]

theorem Unseen.alu {alu : Byte → Byte × Byte} (h : AluNeutral alu) (p : Byte) : alu (f p) = ((alu p).1, f (alu p).2) := by
  refine Prod.ext ?_ (hf.comm h.status p)
  rw [hf.eq_pulledStatus, h]

theorem Unseen.flagC (p : Byte) : flagC (f p) = flagC p := by rw [hf.eq_pulledStatus, flagC_pulledStatus]
theorem Unseen.flagZ (p : Byte) : flagZ (f p) = flagZ p := by rw [hf.eq_pulledStatus, flagZ_pulledStatus]
theorem Unseen.flagI (p : Byte) : flagI (f p) = flagI p := by rw [hf.eq_pulledStatus, flagI_pulledStatus]
theorem Unseen.flagV (p : Byte) : flagV (f p) = flagV p := by rw [hf.eq_pulledStatus, flagV_pulledStatus]
theorem Unseen.flagN (p : Byte) : flagN (f p) = flagN p := by rw [hf.eq_pulledStatus, flagN_pulledStatus]
theorem Unseen.brokenCopy (p : Byte) : brokenCopy (f p) = brokenCopy p := by rw [hf.eq_pulledStatus, brokenCopy_pulledStatus]
theorem Unseen.interruptCopy (p : Byte) : interruptCopy (f p) = interruptCopy p := by
  rw [hf.eq_pulledStatus, interruptCopy_pulledStatus]

/-! ## Effects, traps and the poll -/

variable {c k : Nat}

theorem status_recast {g : Byte → Byte} (hg : StatusNeutral g) (s : State) :
    status g (s.recast f c k) = (status g s).recast f c k := by
  simp only [status, State.recast, hf.comm hg]

theorem loadA_recast (v : Byte) (s : State) : loadA v (s.recast f c k) = (loadA v s).recast f c k := by
  simp only [loadA, State.recast, hf.comm (setNZ_neutral v)]

theorem loadX_recast (v : Byte) (s : State) : loadX v (s.recast f c k) = (loadX v s).recast f c k := by
  simp only [loadX, State.recast, hf.comm (setNZ_neutral v)]

theorem loadY_recast (v : Byte) (s : State) : loadY v (s.recast f c k) = (loadY v s).recast f c k := by
  simp only [loadY, State.recast, hf.comm (setNZ_neutral v)]

theorem accumulate_recast {alu : Byte → Byte → Byte → Byte × Byte} (h : ∀ a m, AluNeutral (alu · a m)) (m : Byte) (s : State) :
    accumulate alu m (s.recast f c k) = (accumulate alu m s).recast f c k := by
  simp only [accumulate, State.recast, hf.alu (h s.a m)]

theorem modifyA_recast {alu : Byte → Byte → Byte × Byte} (h : ∀ m, AluNeutral (alu · m)) (s : State) :
    modifyA alu (s.recast f c k) = (modifyA alu s).recast f c k := by
  simp only [modifyA, State.recast, hf.alu (h s.a)]

theorem modifyX_recast {alu : Byte → Byte → Byte × Byte} (h : ∀ m, AluNeutral (alu · m)) (s : State) :
    modifyX alu (s.recast f c k) = (modifyX alu s).recast f c k := by
  simp only [modifyX, State.recast, hf.alu (h s.x)]

theorem modifyY_recast {alu : Byte → Byte → Byte × Byte} (h : ∀ m, AluNeutral (alu · m)) (s : State) :
    modifyY alu (s.recast f c k) = (modifyY alu s).recast f c k := by
  simp only [modifyY, State.recast, hf.alu (h s.y)]

theorem shiftEffect_recast {alu : Byte → Byte → Byte × Byte} (h : ∀ m, AluNeutral (alu · m)) (mode : Mode) (v : Byte) (s : State) :
    shiftEffect alu mode v (s.recast f c k) = (shiftEffect alu mode v s).recast f c k := by
  unfold shiftEffect
  split
  · exact modifyA_recast hf h s
  · exact status_recast hf (h v).status s

/-- No mnemonic's effect reads or writes the live bits or the counters. -/
theorem registerEffect_recast (m : Mnemonic) (mode : Mode) (v : Byte) (s : State) :
    registerEffect m mode v (s.recast f c k) = (registerEffect m mode v s).recast f c k := by
  cases m with
  | lda => exact loadA_recast hf v s
  | ldx => exact loadX_recast hf v s
  | ldy => exact loadY_recast hf v s
  | tax => exact loadX_recast hf s.a s
  | tay => exact loadY_recast hf s.a s
  | txa => exact loadA_recast hf s.x s
  | tya => exact loadA_recast hf s.y s
  | tsx => exact loadX_recast hf s.sp s
  | pla => exact loadA_recast hf v { s with sp := s.sp + 1#8 }
  | plp => exact status_recast hf (pulledStatus_neutral v) { s with sp := s.sp + 1#8 }
  | and => exact accumulate_recast hf andAlu_neutral v s
  | ora => exact accumulate_recast hf oraAlu_neutral v s
  | eor => exact accumulate_recast hf eorAlu_neutral v s
  | adc => exact accumulate_recast hf adcAlu_neutral v s
  | sbc => exact accumulate_recast hf sbcAlu_neutral v s
  | bit => exact status_recast hf (bitAlu_neutral s.a v) s
  | cmp => exact status_recast hf (compareAlu_neutral s.a v) s
  | cpx => exact status_recast hf (compareAlu_neutral s.x v) s
  | cpy => exact status_recast hf (compareAlu_neutral s.y v) s
  | inc => exact status_recast hf (incAlu_neutral v).status s
  | dec => exact status_recast hf (decAlu_neutral v).status s
  | inx => exact modifyX_recast hf incAlu_neutral s
  | iny => exact modifyY_recast hf incAlu_neutral s
  | dex => exact modifyX_recast hf decAlu_neutral s
  | dey => exact modifyY_recast hf decAlu_neutral s
  | asl => exact shiftEffect_recast hf aslAlu_neutral mode v s
  | lsr => exact shiftEffect_recast hf lsrAlu_neutral mode v s
  | rol => exact shiftEffect_recast hf rolAlu_neutral mode v s
  | ror => exact shiftEffect_recast hf rorAlu_neutral mode v s
  | clc | sec => exact status_recast hf (fun v p => setC_pulledStatus v p _) s
  | cli | sei => exact status_recast hf (fun v p => setI_pulledStatus v p _) s
  | cld | sed => exact status_recast hf (fun v p => setD_pulledStatus v p _) s
  | clv => exact status_recast hf (fun v p => setV_pulledStatus v p _) s
  | brk => exact status_recast hf (fun v p => setI_pulledStatus v p true) { s with sp := s.sp - 3#8 }
  | rti => exact status_recast hf (pulledStatus_neutral v) { s with sp := s.sp + 3#8 }
  | txs | pha | php | jsr | rts | sta | stx | sty | jmp | bcc | bcs | beq | bne | bmi | bpl | bvc | bvs | nop => rfl

theorem takeTrap_recast {ret : Word} {copy : Byte} {vector : Word} {s t : State} (h : takeTrap ret copy vector s = .next t) :
    takeTrap ret copy vector (s.recast f c k) = .next (t.recast f c k) := by
  obtain ⟨u, hu, h⟩ := andThen_eq_next.mp h
  obtain ⟨v, hv, h⟩ := andThen_eq_next.mp h
  obtain ⟨⟨w, z⟩, hz, h⟩ := andThen_eq_next.mp h
  cases h
  have hi : status (setI true) (v.recast f c k) = (status (setI true) v).recast f c k :=
    status_recast hf (fun v p => setI_pulledStatus v p true) v
  refine andThen_eq_next.mpr ⟨_, pushWord_recast hu, andThen_eq_next.mpr ⟨_, push_recast hv, ?_⟩⟩
  refine andThen_eq_next.mpr ⟨(w, z.recast f c k), ?_, rfl⟩
  exact (congrArg (memReadWord vector) hi).trans (memReadWord_recast hz)

theorem interruptEntry_recast {vector : Word} {s t : State} (h : interruptEntry vector s = .next t) :
    interruptEntry vector (s.recast f c k) = .next (t.recast f c k) := by
  obtain ⟨u, hu, h⟩ := andThen_eq_next.mp h
  cases h
  have hcopy : interruptCopy (s.recast f c k).p = interruptCopy s.p := hf.interruptCopy s.p
  rw [interruptEntry, hcopy]
  refine andThen_eq_next.mpr ⟨_, takeTrap_recast hf hu, ?_⟩
  simp [State.recast, Nat.add_right_comm]

theorem returnFromTrap_recast {s t : State} (h : returnFromTrap s = .next t) :
    returnFromTrap (s.recast f c k) = .next (t.recast f c k) := by
  obtain ⟨⟨v, u⟩, hu, h⟩ := andThen_eq_next.mp h
  obtain ⟨⟨w, z⟩, hz, h⟩ := andThen_eq_next.mp h
  cases h
  have hp : status (pulledStatus v) (u.recast f c k) = (status (pulledStatus v) u).recast f c k :=
    status_recast hf (pulledStatus_neutral v) u
  refine andThen_eq_next.mpr ⟨_, pull_recast hu, andThen_eq_next.mpr ⟨(w, z.recast f c k), ?_, rfl⟩⟩
  exact (congrArg pullWord hp).trans (pullWord_recast hz)

theorem poll_recast {s t : State} (h : poll s = .next t) : poll (s.recast f c k) = .next (t.recast f c k) := by
  have hn : (s.recast f c k).nmi = s.nmi := rfl
  have hi : (s.recast f c k).irq = s.irq := rfl
  have hmask : flagI (s.recast f c k).p = flagI s.p := hf.flagI s.p
  unfold poll at h ⊢
  rw [hn, hi, hmask]
  split at h
  · next h1 =>
    rw [if_pos h1]
    obtain ⟨u, hu, h⟩ := andThen_eq_next.mp h
    cases h
    exact andThen_eq_next.mpr ⟨_, interruptEntry_recast hf hu, rfl⟩
  · next h1 =>
    rw [if_neg h1]
    split at h
    · next h2 =>
      rw [if_pos h2]
      obtain ⟨u, hu, h⟩ := andThen_eq_next.mp h
      cases h
      exact andThen_eq_next.mpr ⟨_, interruptEntry_recast hf hu, rfl⟩
    · next h2 =>
      rw [if_neg h2]
      cases h
      rfl

end

end Sys2Proof.Machine
end

section
/-! Every instruction in the shared shapes with its mnemonic's effect, so that a proof about all 151 constructors splits along the shapes;
and the noninterference of the live bits (R30, R32). -/

namespace Sys2Proof.Machine

/-- The mnemonics that set PC themselves (46_control_transfer.md R290; 47_flags_system.md R319, R320). -/
def transfers : List Mnemonic := [.jmp, .jsr, .rts, .brk, .rti, .bcc, .bcs, .beq, .bne, .bmi, .bpl, .bvc, .bvs]

/-- `r` is a byte that the live bits of P and the counters have no part in, as the bytes stored and pushed are. -/
def WrittenByte (r : State → Byte) : Prop := ∀ {f : Byte → Byte}, Unseen f → ∀ c k s, r (s.recast f c k) = r s

/-- What an instruction's meaning is, in the shared shapes, by the effect of its mnemonic. -/
inductive EffectShape : Instr → Prop where
  | read {i : Instr} (src : Src) (exec_eq : ∀ s, exec i s = readShape i src (effectOf i) s) : EffectShape i
  | store {i : Instr} (e : Ea) (r : State → Byte) (exec_eq : ∀ s, exec i s = storeShape i e (r s) s) (written : WrittenByte r)
      (effect_eq : ∀ v s, effectOf i v s = s) : EffectShape i
  | modify {i : Instr} (e : Ea) (alu : Byte → Byte → Byte × Byte) (exec_eq : ∀ s, exec i s = modifyShape i e alu s)
      (neutral : ∀ m, AluNeutral (alu · m)) (effect_eq : ∀ v s, effectOf i v s = status (fun p => (alu p v).2) s) : EffectShape i
  | register {i : Instr} (exec_eq : ∀ s, exec i s = registerShape i (effectOf i 0x00#8) s) : EffectShape i
  | branch {i : Instr} (cond : Byte → Bool) (d : Byte) (exec_eq : ∀ s, exec i s = branchShape i (cond s.p) d s)
      (neutral : ∀ {f}, Unseen f → ∀ p, cond (f p) = cond p) (effect_eq : ∀ v s, effectOf i v s = s)
      (penalty : i.row.penalty = .branch) (transfer : i.row.mnemonic ∈ transfers) : EffectShape i
  | push {i : Instr} (r : State → Byte) (exec_eq : ∀ s, exec i s = andThen (push (r s) s) (finish i 0)) (written : WrittenByte r)
      (effect_eq : ∀ v s, effectOf i v s = { s with sp := s.sp - 1#8 }) : EffectShape i
  | pla : EffectShape .pla
  | plp : EffectShape .plp
  | jmpAbs (w : Word) : EffectShape (.jmpAbs w)
  | jmpInd (w : Word) : EffectShape (.jmpInd w)
  | jsr (w : Word) : EffectShape (.jsr w)
  | rts : EffectShape .rts
  | brk : EffectShape .brk
  | rti : EffectShape .rti

theorem exec_effectShape (i : Instr) : EffectShape i := by
  cases i with
  | ldaImm | ldaZp | ldaZpX | ldaAbs | ldaAbsX | ldaAbsY | ldaIndX | ldaIndY | ldxImm | ldxZp | ldxZpY | ldxAbs | ldxAbsY
  | ldyImm | ldyZp | ldyZpX | ldyAbs | ldyAbsX
  | andImm | andZp | andZpX | andAbs | andAbsX | andAbsY | andIndX | andIndY
  | oraImm | oraZp | oraZpX | oraAbs | oraAbsX | oraAbsY | oraIndX | oraIndY
  | eorImm | eorZp | eorZpX | eorAbs | eorAbsX | eorAbsY | eorIndX | eorIndY | bitZp | bitAbs
  | adcImm | adcZp | adcZpX | adcAbs | adcAbsX | adcAbsY | adcIndX | adcIndY
  | sbcImm | sbcZp | sbcZpX | sbcAbs | sbcAbsX | sbcAbsY | sbcIndX | sbcIndY
  | cmpImm | cmpZp | cmpZpX | cmpAbs | cmpAbsX | cmpAbsY | cmpIndX | cmpIndY
  | cpxImm | cpxZp | cpxAbs | cpyImm | cpyZp | cpyAbs => exact .read _ fun _ => by dsimp; rfl
  | staZp | staZpX | staAbs | staAbsX | staAbsY | staIndX | staIndY =>
    exact .store _ State.a (fun _ => by dsimp) (fun _ _ _ _ => rfl) fun _ _ => rfl
  | stxZp | stxZpY | stxAbs => exact .store _ State.x (fun _ => by dsimp) (fun _ _ _ _ => rfl) fun _ _ => rfl
  | styZp | styZpX | styAbs => exact .store _ State.y (fun _ => by dsimp) (fun _ _ _ _ => rfl) fun _ _ => rfl
  | incZp | incZpX | incAbs | incAbsX => exact .modify _ _ (fun _ => by dsimp) incAlu_neutral fun _ _ => rfl
  | decZp | decZpX | decAbs | decAbsX => exact .modify _ _ (fun _ => by dsimp) decAlu_neutral fun _ _ => rfl
  | aslZp | aslZpX | aslAbs | aslAbsX => exact .modify _ _ (fun _ => by dsimp) aslAlu_neutral fun _ _ => rfl
  | lsrZp | lsrZpX | lsrAbs | lsrAbsX => exact .modify _ _ (fun _ => by dsimp) lsrAlu_neutral fun _ _ => rfl
  | rolZp | rolZpX | rolAbs | rolAbsX => exact .modify _ _ (fun _ => by dsimp) rolAlu_neutral fun _ _ => rfl
  | rorZp | rorZpX | rorAbs | rorAbsX => exact .modify _ _ (fun _ => by dsimp) rorAlu_neutral fun _ _ => rfl
  | tax | tay | txa | tya | tsx | txs | inx | iny | dex | dey | aslAcc | lsrAcc | rolAcc | rorAcc
  | clc | sec | cli | sei | cld | sed | clv | nop => exact .register fun _ => rfl
  | bcc d =>
    exact .branch (!flagC ·) d (fun _ => rfl) (fun hf p => congrArg not (hf.flagC p)) (fun _ _ => rfl) rfl
      (by decide : Mnemonic.bcc ∈ transfers)
  | bcs d =>
    exact .branch flagC d (fun _ => rfl) Unseen.flagC (fun _ _ => rfl) rfl (by decide : Mnemonic.bcs ∈ transfers)
  | beq d =>
    exact .branch flagZ d (fun _ => rfl) Unseen.flagZ (fun _ _ => rfl) rfl (by decide : Mnemonic.beq ∈ transfers)
  | bne d =>
    exact .branch (!flagZ ·) d (fun _ => rfl) (fun hf p => congrArg not (hf.flagZ p)) (fun _ _ => rfl) rfl
      (by decide : Mnemonic.bne ∈ transfers)
  | bmi d =>
    exact .branch flagN d (fun _ => rfl) Unseen.flagN (fun _ _ => rfl) rfl (by decide : Mnemonic.bmi ∈ transfers)
  | bpl d =>
    exact .branch (!flagN ·) d (fun _ => rfl) (fun hf p => congrArg not (hf.flagN p)) (fun _ _ => rfl) rfl
      (by decide : Mnemonic.bpl ∈ transfers)
  | bvc d =>
    exact .branch (!flagV ·) d (fun _ => rfl) (fun hf p => congrArg not (hf.flagV p)) (fun _ _ => rfl) rfl
      (by decide : Mnemonic.bvc ∈ transfers)
  | bvs d =>
    exact .branch flagV d (fun _ => rfl) Unseen.flagV (fun _ _ => rfl) rfl (by decide : Mnemonic.bvs ∈ transfers)
  | pha => exact .push State.a (fun _ => rfl) (fun _ _ _ _ => rfl) fun _ _ => rfl
  | php => exact .push (fun s => brokenCopy s.p) (fun _ => rfl) (fun hf _ _ s => hf.brokenCopy s.p) fun _ _ => rfl
  | pla => exact .pla
  | plp => exact .plp
  | jmpAbs w => exact .jmpAbs w
  | jmpInd w => exact .jmpInd w
  | jsr w => exact .jsr w
  | rts => exact .rts
  | brk => exact .brk
  | rti => exact .rti

/-! ## No instruction and no step sees the live bits or the counters -/

section
variable {f : Byte → Byte} (hf : Unseen f) {c k : Nat} {s t : State}
include hf

theorem effectOf_recast (i : Instr) (v : Byte) : effectOf i v (s.recast f c k) = (effectOf i v s).recast f c k :=
  registerEffect_recast hf ..

theorem readShape_recast {i : Instr} {src : Src} (h : readShape i src (effectOf i) s = .next t) :
    readShape i src (effectOf i) (s.recast f c k) = .next (t.recast f c k) := by
  obtain ⟨⟨v, x, u⟩, hu, h⟩ := andThen_eq_next.mp h
  refine andThen_eq_next.mpr ⟨_, operand_recast hu, ?_⟩
  dsimp only
  rw [effectOf_recast hf]
  exact finish_recast h

omit hf in
theorem storeShape_recast {i : Instr} {e : Ea} {v : Byte} (h : storeShape i e v s = .next t) :
    storeShape i e v (s.recast f c k) = .next (t.recast f c k) := by
  obtain ⟨⟨r, u⟩, hu, h⟩ := andThen_eq_next.mp h
  obtain ⟨w, hw, h⟩ := andThen_eq_next.mp h
  exact andThen_eq_next.mpr ⟨_, resolve_recast hu, andThen_eq_next.mpr ⟨_, memWrite_recast hw, finish_recast h⟩⟩

theorem modifyShape_recast {i : Instr} {e : Ea} {alu : Byte → Byte → Byte × Byte} (ha : ∀ m, AluNeutral (alu · m))
    (h : modifyShape i e alu s = .next t) : modifyShape i e alu (s.recast f c k) = .next (t.recast f c k) := by
  obtain ⟨⟨r, u⟩, hu, h⟩ := andThen_eq_next.mp h
  obtain ⟨⟨v, w⟩, hw, h⟩ := andThen_eq_next.mp h
  obtain ⟨z, hz, h⟩ := andThen_eq_next.mp h
  refine andThen_eq_next.mpr ⟨_, resolve_recast hu, andThen_eq_next.mpr ⟨_, memRead_recast hw, ?_⟩⟩
  have hout : alu (w.recast f c k).p v = ((alu w.p v).1, f (alu w.p v).2) := hf.alu (ha v) w.p
  have hcarry : setC (flagC (f (alu w.p v).2)) (f w.p) = f (setC (flagC (alu w.p v).2) w.p) := by
    rw [hf.flagC]
    exact hf.comm (fun v p => setC_pulledStatus v p _) w.p
  dsimp only
  rw [hout]
  refine andThen_eq_next.mpr ⟨z.recast f c k, ?_, finish_recast h⟩
  exact (congrArg (fun p => memWrite r.ea (alu w.p v).1 { w.recast f c k with p := p }) hcarry).trans (memWrite_recast hz)

omit hf in
theorem branchShape_recast {i : Instr} {cond : Bool} {d : Byte} (h : branchShape i cond d s = .next t) :
    branchShape i cond d (s.recast f c k) = .next (t.recast f c k) := by
  cases cond with
  | true =>
    cases h
    exact congrArg Host.Outcome.next (retire_recast (s := { s with pc := branchTarget s.pc d }) _ _)
  | false =>
    cases h
    exact congrArg Host.Outcome.next (retire_recast (s := { s with pc := branchNext s.pc }) _ _)

theorem exec_recast {i : Instr} (h : exec i s = .next t) : exec i (s.recast f c k) = .next (t.recast f c k) := by
  cases exec_effectShape i with
  | read src exec_eq =>
    rw [exec_eq] at h ⊢
    exact readShape_recast hf h
  | store e r exec_eq written _ =>
    rw [exec_eq] at h ⊢
    rw [written hf]
    exact storeShape_recast h
  | modify e alu exec_eq neutral _ =>
    rw [exec_eq] at h ⊢
    exact modifyShape_recast hf neutral h
  | register exec_eq =>
    rw [exec_eq, registerShape] at h ⊢
    rw [effectOf_recast hf]
    exact finish_recast h
  | branch cond d exec_eq neutral _ _ _ =>
    have hcond : cond (s.recast f c k).p = cond s.p := neutral hf s.p
    rw [exec_eq] at h ⊢
    rw [hcond]
    exact branchShape_recast h
  | push r exec_eq written _ =>
    rw [exec_eq] at h ⊢
    rw [written hf]
    obtain ⟨u, hu, h⟩ := andThen_eq_next.mp h
    exact andThen_eq_next.mpr ⟨_, push_recast hu, finish_recast h⟩
  | pla =>
    obtain ⟨⟨v, u⟩, hu, h⟩ := andThen_eq_next.mp h
    refine andThen_eq_next.mpr ⟨_, pull_recast hu, ?_⟩
    dsimp only
    rw [loadA_recast hf]
    exact finish_recast h
  | plp =>
    obtain ⟨⟨v, u⟩, hu, h⟩ := andThen_eq_next.mp h
    refine andThen_eq_next.mpr ⟨_, pull_recast hu, ?_⟩
    dsimp only
    rw [status_recast hf (pulledStatus_neutral v)]
    exact finish_recast h
  | jmpAbs w =>
    cases h
    exact congrArg Host.Outcome.next (retire_recast (s := { s with pc := w }) _ _)
  | jmpInd w =>
    obtain ⟨⟨a, u⟩, hu, h⟩ := andThen_eq_next.mp h
    cases h
    exact andThen_eq_next.mpr
      ⟨_, resolveIndirect_recast hu, congrArg Host.Outcome.next (retire_recast (s := { u with pc := a }) _ _)⟩
  | jsr w =>
    obtain ⟨u, hu, h⟩ := andThen_eq_next.mp h
    cases h
    exact andThen_eq_next.mpr ⟨_, pushWord_recast hu, congrArg Host.Outcome.next (retire_recast (s := { u with pc := w }) _ _)⟩
  | rts =>
    obtain ⟨⟨a, u⟩, hu, h⟩ := andThen_eq_next.mp h
    cases h
    exact andThen_eq_next.mpr
      ⟨_, pullWord_recast hu, congrArg Host.Outcome.next (retire_recast (s := { u with pc := a + 1#16 }) _ _)⟩
  | brk =>
    obtain ⟨u, hu, h⟩ := andThen_eq_next.mp h
    cases h
    have hcopy : brokenCopy (s.recast f c k).p = brokenCopy s.p := hf.brokenCopy s.p
    rw [exec_brk, hcopy]
    exact andThen_eq_next.mpr ⟨_, takeTrap_recast hf hu, congrArg Host.Outcome.next (retire_recast _ _)⟩
  | rti =>
    obtain ⟨u, hu, h⟩ := andThen_eq_next.mp h
    cases h
    exact andThen_eq_next.mpr ⟨_, returnFromTrap_recast hf hu, congrArg Host.Outcome.next (retire_recast _ _)⟩

/-- A step carries along what it cannot see. -/
theorem step_recast (h : step s = .next t) : step (s.recast f c k) = .next (t.recast f c k) := by
  obtain ⟨b0, u, hfetch, ht⟩ | ⟨i, u, v, w, hfetch, hexec, hobserve, hpoll⟩ := step_cases h
  · exact andThen_eq_next.mpr ⟨_, fetch_recast hfetch, unknownOpcode_recast ht⟩
  · have hcycles : (v.recast f c k).es.cycles - (u.recast f c k).es.cycles = v.es.cycles - u.es.cycles :=
      Nat.add_sub_add_right ..
    refine andThen_eq_next.mpr ⟨_, fetch_recast hfetch, andThen_eq_next.mpr ⟨_, exec_recast hf hexec, ?_⟩⟩
    rw [afterInstruction, hcycles]
    exact andThen_eq_next.mpr ⟨_, observe_recast hobserve, poll_recast hf hpoll⟩

end

/-- What is in bits 4 and 5 stays there: a machine recast with its own live bits is itself. -/
theorem step_keeps_liveBits {s t : State} (h : step s = .next t) : t.p = pulledStatus t.p s.p := by
  have hs : s.recast (pulledStatus · s.p) 0 0 = s := by simp [State.recast, pulledStatus_self]
  have ht := step_recast (unseen_pulledStatus s.p) (c := 0) (k := 0) h
  rw [hs, h] at ht
  injection ht with ht
  exact congrArg State.p ht

/-- Settles O53: the step carries along any value of the live bits. -/
theorem liveBreakAndUnusedInert : Obligations.LiveBreakAndUnusedInert := by
  intro s t q h hq
  have hp := step_keeps_liveBits h
  refine ⟨⟨?_, ?_⟩, ?_⟩
  · rw [hp, flagB_pulledStatus]
  · rw [hp, flagU_pulledStatus]
  · have hq' : pulledStatus s.p q = q := by rw [pulledStatus, ← hq]; exact pulledStatus_self q
    have hrecast := step_recast (unseen_pulledStatus q) (c := 0) (k := 0) h
    simp only [State.recast, hq'] at hrecast
    exact hrecast

end Sys2Proof.Machine
end

section
/-! What an instruction that answers has done, said once from its mnemonic's effect: the registers, the counters and PC, on any machine,
callbacks included; and the statements about every instruction and every step that follow from it. -/

namespace Sys2Proof.Machine

/-! ## Everything an instruction that answers has done -/

/-- The penalty cycles an instruction's row allows (R190 to R192). -/
structure PenaltyAllowed (i : Instr) (extra : Nat) : Prop where
  none : i.row.penalty = .none → extra = 0
  page : i.row.penalty = .page → extra ≤ 1
  branch : i.row.penalty = .branch → extra ≤ 2

theorem penaltyAllowed_zero (i : Instr) : PenaltyAllowed i 0 := ⟨fun _ => rfl, fun _ => Nat.zero_le 1, fun _ => Nat.zero_le 2⟩

theorem penaltyAllowed_pagePenalty (i : Instr) (crossed : Bool) : PenaltyAllowed i (pagePenalty i crossed) := by
  unfold pagePenalty
  split
  · next h => exact ⟨fun e => by simp [e] at h, fun _ => Nat.le_refl 1, fun _ => Nat.le_succ 1⟩
  · exact penaltyAllowed_zero i

/-- `t` is `s` after the effect of `i`, with PC moved on and the counters of R154; latches, stores and platform state may be what
callbacks made of them. -/
structure Executed (i : Instr) (s t : State) : Prop where
  registers : ∃ v, Kept { effectOf i v s with pc := t.pc, es := t.es } t
  counted : ∃ extra, t.es = s.accounted i (i.row.cycles + extra) ∧ PenaltyAllowed i extra
  pc : i.row.mnemonic ∉ transfers → t.pc = s.pcPlus i.length

/-- The end of any instruction: `u` is the state before the counting. -/
theorem executed_retire {i : Instr} {s u : State} {extra : Nat} (v : Byte) (k : Kept { effectOf i v s with pc := u.pc } u)
    (he : PenaltyAllowed i extra) (hpc : i.row.mnemonic ∉ transfers → u.pc = s.pcPlus i.length) :
    Executed i s (retire i extra u) where
  registers := ⟨v, k.a, k.x, k.y, k.sp, rfl, k.p, rfl, k.params, k.sizes, k.memoryWf, k.cfg⟩
  counted := by
    have hes : u.es = s.es := k.es.trans (registerEffect_es ..)
    exact ⟨extra, by rw [retire_es, State.accounted, hes, ← State.accounted], he⟩
  pc := hpc

/-- The end of an instruction that is no control transfer. -/
theorem executed_finish {i : Instr} {s u : State} {extra : Nat} (v : Byte) (k : Kept (effectOf i v s) u)
    (he : PenaltyAllowed i extra) : Executed i s (retire i extra (advance i u)) := by
  refine executed_retire v ⟨k.a, k.x, k.y, k.sp, rfl, k.p, k.es, k.params, k.sizes, k.memoryWf, k.cfg⟩ he fun _ => ?_
  have hpc : u.pc = s.pc := k.pc.trans (registerEffect_pc ..)
  rw [advance_pc, pc_add_eq, State.pcPlus, hpc, ← State.pcPlus]

theorem Kept.withPc {s t : State} (k : Kept s t) (w : Word) : Kept { s with pc := w } { t with pc := w } :=
  ⟨k.a, k.x, k.y, k.sp, rfl, k.p, k.es, k.params, k.sizes, k.memoryWf, k.cfg⟩

theorem Kept.withP {s t : State} (k : Kept s t) (p : Byte) : Kept { s with p := p } { t with p := p } :=
  ⟨k.a, k.x, k.y, k.sp, k.pc, rfl, k.es, k.params, k.sizes, k.memoryWf, k.cfg⟩

theorem exec_executed {i : Instr} {s t : State} (h : exec i s = .next t) : Executed i s t := by
  cases exec_effectShape i with
  | read src exec_eq =>
    obtain ⟨v, x, u, hu, rfl⟩ := readShape_next (exec_eq s ▸ h)
    exact executed_finish v ((operand_kept hu).effect ..) (penaltyAllowed_pagePenalty i x)
  | store e r exec_eq _ effect_eq =>
    obtain ⟨x, u, w, hu, hw, rfl⟩ := storeShape_next (exec_eq s ▸ h)
    refine executed_finish 0x00#8 ?_ (penaltyAllowed_zero i)
    rw [effect_eq]
    exact (resolve_kept hu).trans (memWrite_kept hw)
  | modify e alu exec_eq _ effect_eq =>
    obtain ⟨r, u, v, w, z, hu, hw, hz, rfl⟩ := modifyShape_next (exec_eq s ▸ h)
    refine executed_finish v ?_ (penaltyAllowed_zero i)
    have k := (resolve_kept hu).trans (memRead_kept hw)
    rw [effect_eq, status, ← k.p]
    exact (k.withP _).trans ((memWrite_kept hz).withP _)
  | register exec_eq =>
    rw [exec_eq] at h
    cases h
    exact executed_finish 0x00#8 (Kept.refl _) (penaltyAllowed_zero i)
  | branch cond d exec_eq _ effect_eq penalty transfer =>
    rw [exec_eq] at h
    have hbranch (n : Nat) (w : Word) (hn : n ≤ 2) : Executed i s (retire i n { s with pc := w }) := by
      refine executed_retire 0x00#8 ?_ ⟨?_, ?_, fun _ => hn⟩ fun hm => absurd transfer hm
      · rw [effect_eq]; exact Kept.refl _
      · rw [penalty]; nofun
      · rw [penalty]; nofun
    unfold branchShape at h
    split at h
    · cases h
      exact hbranch _ _ (by split <;> omega)
    · cases h
      exact hbranch _ _ (Nat.zero_le 2)
  | push r exec_eq _ effect_eq =>
    obtain ⟨u, hu, h⟩ := andThen_eq_next.mp (exec_eq s ▸ h)
    cases h
    refine executed_finish 0x00#8 ?_ (penaltyAllowed_zero i)
    rw [effect_eq]
    exact push_kept hu
  | pla =>
    obtain ⟨⟨v, u⟩, hu, h⟩ := andThen_eq_next.mp h
    cases h
    exact executed_finish v ((pull_kept hu).effect .lda .imp v) (penaltyAllowed_zero _)
  | plp =>
    obtain ⟨⟨v, u⟩, hu, h⟩ := andThen_eq_next.mp h
    cases h
    have k := pull_kept hu
    refine executed_finish v ?_ (penaltyAllowed_zero _)
    rw [status, k.p]
    exact k.withP _
  | jmpAbs w =>
    cases h
    exact executed_retire 0x00#8 (Kept.refl _) (penaltyAllowed_zero _) (absurd (by decide : Mnemonic.jmp ∈ transfers))
  | jmpInd w =>
    obtain ⟨⟨a, u⟩, hu, h⟩ := andThen_eq_next.mp h
    cases h
    exact executed_retire 0x00#8 ((resolveIndirect_kept hu).withPc a) (penaltyAllowed_zero _)
      (absurd (by decide : Mnemonic.jmp ∈ transfers))
  | jsr w =>
    obtain ⟨u, hu, h⟩ := andThen_eq_next.mp h
    cases h
    exact executed_retire 0x00#8 ((pushWord_kept hu).withPc w) (penaltyAllowed_zero _)
      (absurd (by decide : Mnemonic.jsr ∈ transfers))
  | rts =>
    obtain ⟨⟨a, u⟩, hu, h⟩ := andThen_eq_next.mp h
    cases h
    exact executed_retire 0x00#8 ((pullWord_kept hu).withPc (a + 1#16)) (penaltyAllowed_zero _)
      (absurd (by decide : Mnemonic.rts ∈ transfers))
  | brk =>
    obtain ⟨u, hu, h⟩ := andThen_eq_next.mp h
    cases h
    exact executed_retire 0x00#8 (takeTrap_kept hu) (penaltyAllowed_zero _) (absurd (by decide : Mnemonic.brk ∈ transfers))
  | rti =>
    obtain ⟨u, hu, h⟩ := andThen_eq_next.mp h
    cases h
    obtain ⟨k, v, hv⟩ := returnFromTrap_kept hu
    rw [hv] at k
    exact executed_retire v k (penaltyAllowed_zero _) (absurd (by decide : Mnemonic.rti ∈ transfers))

/-! ## The invariant -/

theorem Kept.inv {s t : State} (k : Kept s t) (h : s.Inv) : t.Inv := by
  obtain ⟨hparams, hcfg, hmem⟩ := h
  exact ⟨by rw [k.params, k.sizes]; exact hparams, k.cfg hcfg, k.memoryWf hmem⟩

/-- The invariant speaks of no register. -/
theorem RegistersOnly.inv {s t : State} (r : RegistersOnly s t) (h : s.Inv) : t.Inv := by
  unfold State.Inv State.sizes State.memoryWf
  rw [r.params, r.stores, r.cfg]
  exact h

theorem exec_inv {i : Instr} {s t : State} (h : exec i s = .next t) (hs : s.Inv) : t.Inv := by
  obtain ⟨v, k⟩ := (exec_executed h).registers
  exact k.inv ((registerEffect_registersOnly _ _ v s).inv hs)

theorem interruptEntry_inv {vector : Word} {s t : State} (h : interruptEntry vector s = .next t) (hs : s.Inv) : t.Inv :=
  (interruptEntry_kept h).inv hs

theorem poll_inv {s t : State} (h : poll s = .next t) (hs : s.Inv) : t.Inv := by
  obtain ⟨-, u, hu, rfl⟩ | ⟨-, -, -, u, hu, rfl⟩ | ⟨-, -, rfl⟩ := poll_cases h
  · exact (Kept.latches u u.irq false u.plat).inv (interruptEntry_inv hu hs)
  · exact (Kept.latches u false u.nmi u.plat).inv (interruptEntry_inv hu hs)
  · exact hs

/-- Settles O49: fetch, instruction or unknown opcode, observer window and poll each keep the invariant. -/
theorem invariantKept : Obligations.InvariantKept := by
  intro s t hs h
  obtain ⟨b0, u, hf, ht⟩ | ⟨i, u, v, w, hf, he, ho, hp⟩ := step_cases h
  · exact (unknownOpcode_registersOnly ht).inv ((fetch_kept hf).inv hs)
  · exact poll_inv hp ((observe_kept ho).inv (exec_inv he ((fetch_kept hf).inv hs)))

/-- Settles O50: one RAM binding over the one store of 65536 zero bytes, of which no cell is listed. -/
theorem invariantAtReset : Obligations.InvariantAtReset := by
  refine ⟨?_, ?_, ?_⟩
  · decide
  · exact Nat.zero_lt_one
  · intro t ht
    obtain rfl := List.mem_singleton.mp ht
    exact ⟨⟨.nil, nofun⟩, nofun⟩

theorem memReadWord_of_peekWord {s : State} {a w : Word} (h : s.peekWord a (a + 1#16) = some w) : memReadWord a s = .next (w, s) := by
  obtain ⟨lo, hi, hlo, hhi, rfl⟩ := peekWord_some h
  simp only [memReadWord, memRead_of_peek hlo, memRead_of_peek hhi, andThen_next]

/-- Settles O58: the two bytes at the reset vector read zero, whatever the registers held, and Reset loads the rest. -/
theorem resetIsResetOfConstructed : Obligations.ResetIsResetOfConstructed := by
  refine ⟨fun a x y sp pc p => ?_, rfl, rfl, rfl, rfl, rfl, rfl, rfl⟩
  rw [resetCpu, memReadWord_of_peekWord (w := 0x0000#16) rfl]
  rfl

/-! ## Flags -/

/-- The flags of P that a mnemonic's effect leaves alone, as a mask of its bits. -/
def keptFlags : Mnemonic → Byte
  | .adc | .sbc => 0x3C#8
  | .bit => 0x3D#8
  | .cmp | .cpx | .cpy | .asl | .lsr | .rol | .ror => 0x7C#8
  | .lda | .ldx | .ldy | .tax | .tay | .txa | .tya | .tsx | .pla | .and | .ora | .eor | .inc | .dec | .inx | .iny | .dex | .dey => 0x7D#8
  | .clc | .sec => 0xFE#8
  | .cli | .sei | .brk => 0xFB#8
  | .cld | .sed => 0xF7#8
  | .clv => 0xBF#8
  | .plp | .rti => 0x30#8
  | .sta | .stx | .sty | .txs | .pha | .php | .jmp | .jsr | .rts | .nop | .bcc | .bcs | .beq | .bne | .bmi | .bpl | .bvc | .bvs => 0xFF#8

/-- Setting a bit outside the mask `k` is not seen through it. -/
theorem putFlag_and {mask k : Byte} (h : mask &&& k = 0x00#8) (b : Bool) (p : Byte) : putFlag mask b p &&& k = p &&& k := by
  apply BitVec.eq_of_getLsbD_eq
  intro j _
  have hj : (mask.getLsbD j && k.getLsbD j) = false := by simpa using congrArg (·.getLsbD j) h
  cases b
  · simp only [putFlag, Bool.false_eq_true, if_false, BitVec.getLsbD_and, BitVec.getLsbD_not]
    grind
  · simp only [putFlag, if_true, BitVec.getLsbD_and, BitVec.getLsbD_or]
    grind

@[simp] theorem pulledStatus_and (v p : Byte) : pulledStatus v p &&& 0x30#8 = p &&& 0x30#8 := by
  rw [pulledStatus, BitVec.and_or_distrib_right, BitVec.and_assoc, BitVec.and_assoc]
  simp

theorem registerEffect_keptFlags (m : Mnemonic) (mode : Mode) (v : Byte) (s : State) :
    (registerEffect m mode v s).p &&& keptFlags m = s.p &&& keptFlags m := by
  cases m with
  | adc =>
    by_cases h : flagD s.p
    all_goals simp [registerEffect, keptFlags, adcAlu, h, adcDecimal, adcBinary, setNZ, setN, setZ, setC, setV, putFlag_and]
  | sbc =>
    by_cases h : flagD s.p
    all_goals simp [registerEffect, keptFlags, sbcAlu, h, sbcBinary, setNZ, setN, setZ, setC, setV, putFlag_and]
  | asl | lsr | rol | ror =>
    by_cases h : mode = .acc
    all_goals simp [registerEffect, keptFlags, shiftEffect, h, aslAlu, lsrAlu, rolAlu, rorAlu, setNZ, setN, setZ, setC, putFlag_and]
  | bit | cmp | cpx | cpy =>
    simp [registerEffect, keptFlags, bitAlu, compareAlu, setN, setZ, setC, setV, putFlag_and]
  | lda | ldx | ldy | tax | tay | txa | tya | tsx | pla | and | ora | eor | inc | dec | inx | iny | dex | dey =>
    simp [registerEffect, keptFlags, andAlu, oraAlu, eorAlu, incAlu, decAlu, setNZ, setN, setZ, putFlag_and]
  | clc | sec | cli | sei | cld | sed | clv | brk => simp [registerEffect, keptFlags, setC, setI, setD, setV, putFlag_and]
  | plp | rti => exact pulledStatus_and v s.p
  | sta | stx | sty | txs | pha | php | jmp | jsr | rts | nop | bcc | bcs | beq | bne | bmi | bpl | bvc | bvs => rfl

/-- A bit inside the mask, where both bytes agree on the mask. -/
theorem bit_of_and {p q k : Byte} (h : q &&& k = p &&& k) {j : Nat} (hj : k.getLsbD j = true) : q.getLsbD j = p.getLsbD j := by
  simpa [hj] using congrArg (·.getLsbD j) h

theorem exec_keptFlags {i : Instr} {s t : State} (h : exec i s = .next t) :
    t.p &&& keptFlags i.row.mnemonic = s.p &&& keptFlags i.row.mnemonic := by
  obtain ⟨v, k⟩ := (exec_executed h).registers
  rw [k.p]
  exact registerEffect_keptFlags ..

/-- Settles O35: the masks of `keptFlags` have each flag's bit wherever that flag's list leaves the mnemonic out. -/
theorem flagWriters : Obligations.FlagWriters := by
  intro i s t h
  have hp := exec_keptFlags h
  generalize i.row.mnemonic = m at hp ⊢
  refine ⟨fun hm => bit_of_and hp ?_, fun hm => ⟨bit_of_and hp ?_, bit_of_and hp ?_⟩, fun hm => bit_of_and hp ?_,
    fun hm => bit_of_and hp ?_, fun hm => bit_of_and hp ?_, bit_of_and hp ?_, bit_of_and hp ?_⟩
  all_goals
    clear hp
    revert m
    rintro ⟨⟩ <;> decide

/-- Settles O34: those mnemonics keep all of P; BRK's effect on P is to set `P.I`. -/
theorem flagsNeverChangedBy : Obligations.FlagsNeverChangedBy := by
  intro i s t h
  obtain ⟨v, k⟩ := (exec_executed h).registers
  refine ⟨fun hm => ?_, fun hm => ?_⟩
  · have hmask : keptFlags i.row.mnemonic = BitVec.allOnes 8 := by
      generalize i.row.mnemonic = m at hm ⊢
      revert m
      rintro ⟨⟩ <;> decide
    have hp := exec_keptFlags h
    rwa [hmask, BitVec.and_allOnes, BitVec.and_allOnes] at hp
  · have hp : t.p = setI true s.p := by
      rw [k.p]
      simp [effectOf, hm, registerEffect]
    rw [hp, setI_eq]
    simp

/-! ## Registers -/

section
variable (m : Mnemonic) (mode : Mode) (v : Byte) (s : State) (alu : Byte → Byte → Byte × Byte)

theorem shiftEffect_a (h : mode ≠ .acc) : (shiftEffect alu mode v s).a = s.a := by rw [shiftEffect, if_neg h]; rfl
theorem shiftEffect_x : (shiftEffect alu mode v s).x = s.x := by unfold shiftEffect; split <;> rfl
theorem shiftEffect_y : (shiftEffect alu mode v s).y = s.y := by unfold shiftEffect; split <;> rfl
theorem shiftEffect_sp : (shiftEffect alu mode v s).sp = s.sp := by unfold shiftEffect; split <;> rfl

theorem registerEffect_a (hm : m ∉ [.lda, .pla, .txa, .tya, .adc, .sbc, .and, .ora, .eor]) (h : mode ≠ .acc) :
    (registerEffect m mode v s).a = s.a := by
  cases m with
  | lda | pla | txa | tya | adc | sbc | and | ora | eor => simp at hm
  | asl | lsr | rol | ror => exact shiftEffect_a mode v s _ h
  | _ => rfl

theorem registerEffect_x (hm : m ∉ [.ldx, .tax, .tsx, .inx, .dex]) : (registerEffect m mode v s).x = s.x := by
  cases m with
  | ldx | tax | tsx | inx | dex => simp at hm
  | asl | lsr | rol | ror => exact shiftEffect_x mode v s _
  | _ => rfl

theorem registerEffect_y (hm : m ∉ [.ldy, .tay, .iny, .dey]) : (registerEffect m mode v s).y = s.y := by
  cases m with
  | ldy | tay | iny | dey => simp at hm
  | asl | lsr | rol | ror => exact shiftEffect_y mode v s _
  | _ => rfl

theorem registerEffect_sp (hm : m ∉ [.txs, .pha, .php, .pla, .plp, .jsr, .rts, .brk, .rti]) :
    (registerEffect m mode v s).sp = s.sp := by
  cases m with
  | txs | pha | php | pla | plp | jsr | rts | brk | rti => simp at hm
  | asl | lsr | rol | ror => exact shiftEffect_sp mode v s _
  | _ => rfl

end

theorem byte_sub_two (v : Byte) : v - 2#8 = BitVec.ofNat 8 (v.toNat + 254) := by revert v; decide
theorem byte_sub_three (v : Byte) : v - 3#8 = BitVec.ofNat 8 (v.toNat + 253) := by revert v; decide
theorem byte_add_two (v : Byte) : v + 2#8 = BitVec.ofNat 8 (v.toNat + 2) := by revert v; decide
theorem byte_add_three (v : Byte) : v + 3#8 = BitVec.ofNat 8 (v.toNat + 3) := by revert v; decide

/-- Settles O36: A, X, Y and SP are what the mnemonic's effect makes of them. -/
theorem registerWriters : Obligations.RegisterWriters := by
  intro i s t h
  obtain ⟨v, k⟩ := (exec_executed h).registers
  have ha : t.a = (effectOf i v s).a := k.a
  have hx : t.x = (effectOf i v s).x := k.x
  have hy : t.y = (effectOf i v s).y := k.y
  have hsp : t.sp = (effectOf i v s).sp := k.sp
  rw [ha, hx, hy, hsp]
  refine ⟨registerEffect_a _ _ v s, registerEffect_x _ _ v s, registerEffect_y _ _ v s, registerEffect_sp _ _ v s, fun hm => ?_,
    fun hm => ?_, fun hm => ?_, fun hm => ?_, fun hm => ?_, fun hm => ?_, fun hm => ?_⟩
  · obtain hm | hm : i.row.mnemonic = .pha ∨ i.row.mnemonic = .php := by simpa using hm
    · rw [effectOf, hm]; exact byte_sub_one s.sp
    · rw [effectOf, hm]; exact byte_sub_one s.sp
  · obtain hm | hm : i.row.mnemonic = .pla ∨ i.row.mnemonic = .plp := by simpa using hm
    · rw [effectOf, hm]; exact byte_add_one s.sp
    · rw [effectOf, hm]; exact byte_add_one s.sp
  · rw [effectOf, hm]; exact byte_sub_two s.sp
  · rw [effectOf, hm]; exact byte_add_two s.sp
  · rw [effectOf, hm]; exact byte_sub_three s.sp
  · rw [effectOf, hm]; exact byte_add_three s.sp
  · rw [effectOf, hm]; rfl

/-- Settles O37: what `Executed` says of the counters and PC. -/
theorem bookkeepingOfEveryInstruction : Obligations.BookkeepingOfEveryInstruction := by
  intro i s t h
  obtain ⟨-, ⟨extra, hes, none, page, branch⟩, hpc⟩ := exec_executed h
  exact ⟨⟨extra, hes, none, page, branch⟩, hpc⟩

end Sys2Proof.Machine
end

section
/-! Memory as the bindings show it (20_memory.md): one store byte behind every address bound to it (R65, R85), ROM (R66), the
configuration switch (R80, R81), and an access that runs a callback (R67 to R71, R82, R83). -/

namespace Sys2Proof.Machine

/-! ## Store bytes through the binding tables -/

section
variable {s : State} {a b : Word} {v : Byte} {st k : Nat}

/-- A write to an address bound to a store byte is a write of that byte (R65, R71). -/
theorem memWrite_array (hb : writeBinding s a = .array st k) : memWrite a v s = writeStoreByte ⟨st, k, v⟩ s := by
  simp only [memWrite, hb]

/-- A written store byte is read at every address bound to it, whichever configuration is active (R85). -/
theorem memRead_of_storeWrite {ts : List Store} {c : Nat} (hts : storeWrite? s.stores st k v = some ts)
    (hr : readTable (s.params.configs.getD c []) b.toNat = .array st k) :
    memRead b { s with stores := ts, cfg := c } = .next (v, { s with stores := ts, cfg := c }) := by
  have hpeek : State.peek { s with stores := ts, cfg := c } b = storeByte? ts st k := peek_array hr
  exact memRead_of_peek (hpeek.trans (storeByte?_write_same hts))

end

/-- Settles O39: whoever wrote the byte, all that changed is the store, which every binding reads. -/
theorem writesSeenThroughEveryView : Obligations.WritesSeenThroughEveryView := by
  constructor
  · intro s t a b v c st k hb h
    obtain ⟨ts, hts, rfl⟩ := writeStoreByte_next (memWrite_array hb ▸ h)
    exact ⟨storeByte?_write_same hts, memRead_of_storeWrite (s := s) hts, peek_of_storeWrite (s := { s with cfg := c }) b hts⟩
  · intro s t w b c h hr
    obtain ⟨ts, hts, rfl⟩ := writeStoreByte_next h
    exact memRead_of_storeWrite (s := s) hts hr

/-! ## The configuration switch -/

/-- Settles O42: the two branches of the switch. -/
theorem setMemoryConfigurationSwitches : Obligations.SetMemoryConfigurationSwitches :=
  fun _ s => ⟨fun hi => if_pos hi, fun hi => ⟨s, if_neg hi, rfl⟩⟩

/-- Settles O43: after switching away and back, the state is the one the write left. -/
theorem switchingKeepsStorage : Obligations.SwitchingKeepsStorage := by
  constructor
  · intro i s t h
    obtain ⟨-, -, rfl⟩ := setMemoryConfiguration_next h
    rfl
  · rintro s t u w a v i ⟨st, k, hw, hr⟩ ht hu hback
    obtain ⟨ts, hts, rfl⟩ := writeStoreByte_next (memWrite_array hw ▸ ht)
    obtain ⟨-, -, rfl⟩ := setMemoryConfiguration_next hu
    obtain ⟨-, -, rfl⟩ := setMemoryConfiguration_next hback
    exact memRead_of_storeWrite (s := s) hts hr

/-! ## ROM -/

/-- A write to ROM is a plain write that changes nothing (R66). -/
theorem poke_drop {s : State} {a : Word} (v : Byte) (h : writeBinding s a = .drop) : s.poke a v = some s := by
  simp only [State.poke, h]

/-- The effective address in Absolute mode (R168). -/
@[simp] theorem address_abs (s : State) (w : Word) : s.address (.abs w) = some w := by
  simp [State.address, State.effective]

/-- Settles O40: store, read-modify-write and push on plain bytes, where the write left the state as it was. -/
theorem romWritesAreDropped : Obligations.RomWritesAreDropped := by
  refine ⟨fun s a v h => memWrite_of_poke (poke_drop v h), fun s w h => ?_, fun s w v h hv => ?_, fun s h => ?_⟩
  · exact storeShape_of_poke (address_abs s w) (poke_drop s.a h)
  · rw [exec_incAbs, modifyShape_of_poke (address_abs s w) hv (poke_drop _ h), incAlu, setNZ_eq, byte_add_one]
    rfl
  · rw [exec_pha, push_plain (poke_drop s.a h), andThen_next, finish, completed_eq, byte_sub_one]
    rfl

/-! ## Callbacks -/

section
variable {s t : State} {w : Word} {v : Byte} {pl : Plat} {e : Effects}

/-- A read of a Reader: its byte, and its effects after its platform state (R67, R68, R70). -/
theorem memRead_reader {f : Nat} (hb : readBinding s w = .reader f) (hr : readerReply s.params.platform f s.plat = ⟨v, pl, e⟩) :
    memRead w s = andThen (applyEffects e { s with plat := pl }) fun t => .next (v, t) := by
  simp only [memRead, hb, hr]

/-- A write to a Writer: its effects after its platform state (R67, R68, R71). -/
theorem memWrite_writer {g : Nat} (hb : writeBinding s w = .writer g) (hr : writerReply s.params.platform g s.plat v = ⟨pl, e⟩) :
    memWrite w v s = applyEffects e { s with plat := pl } := by
  simp only [memWrite, hb, hr]

@[simp] theorem applyEffects_none (s : State) : applyEffects {} s = .next s := by
  simp [applyEffects, writeStoreBytes, switchIfAsked]

/-- The effects of a bank-switch port: one store write, a switch to an existing configuration, and requests (R68, R82, R83). -/
theorem applyEffects_writeAndSwitch {sw : StoreWrite} {ts : List Store} {c : Nat} (irq nmi : Bool)
    (hts : storeWrite? s.stores sw.store sw.index sw.value = some ts) (hc : c < s.params.count) :
    applyEffects { storeWrites := [sw], setCfg := some (c : Int), raiseIrq := irq, raiseNmi := nmi } s =
      .next { s with stores := ts, cfg := c, irq := s.irq || irq, nmi := s.nmi || nmi } := by
  have hw : writeStoreBytes [sw] s = .next { s with stores := ts } := by
    simp only [writeStoreBytes, writeStoreByte, hts, andThen_next]
  have hs : switchIfAsked (some (c : Int)) { s with stores := ts } = .next { s with stores := ts, cfg := c } :=
    if_pos ⟨Int.natCast_nonneg c, Int.ofNat_lt.mpr hc⟩
  simp only [applyEffects, hw, hs, andThen_next]

/-- A store in Absolute mode is its one write and the bookkeeping, whatever is bound there (R168, R204). -/
theorem storeShape_abs {i : Instr} (h : memWrite w v s = .next t) :
    storeShape i (.abs w) v s = .next (t.completed i i.row.cycles) := by
  simp only [storeShape, resolve, andThen_next, h, finish, completed_eq, Nat.add_zero]

/-- A reading instruction in Absolute mode is its one read, its effect and the bookkeeping, whatever is bound there (R168, R200). -/
theorem readShape_abs {i : Instr} {effect : Byte → State → State} (h : memRead w s = .next (v, t)) :
    readShape i (.mem (.abs w)) effect s = .next ((effect v t).completed i i.row.cycles) := by
  simp [readShape, operand, resolve, h, finish, completed_eq, pagePenalty]

end

/-- Settles O44: the callback's effects, then the bookkeeping, which changes no binding. -/
theorem callbackAccesses : Obligations.CallbackAccesses := by
  constructor
  · intro s w g c pl sw irq nmi ts hb hc hr hts
    have hwrite := (memWrite_writer hb hr).trans (applyEffects_writeAndSwitch (s := { s with plat := pl }) irq nmi hts hc)
    exact ⟨_, storeShape_abs hwrite, rfl, fun _ => rfl⟩
  · intro s w f v pl hb hr
    have hread : memRead w s = .next (v, { s with plat := pl }) := by simp [memRead_reader hb hr]
    rw [exec_ldaAbs, readShape_abs hread, loadA, setNZ_eq]
    rfl

end Sys2Proof.Machine
end

section
/-! The encoding (spec/30_encoding.md R112 to R114, R120 to R122): what the decoder answers in terms of the form of the first byte, and that
the decoder's matrix and the encoder's table agree in both directions. -/

namespace Sys2Proof

open Machine

/-! ## The halves of a word -/

@[simp] theorem lo8_joinWord (h l : Byte) : lo8 (joinWord h l) = l := by
  apply BitVec.eq_of_toNat_eq
  rw [lo8_toNat, joinWord_toNat]
  have := l.isLt
  omega

@[simp] theorem hi8_joinWord (h l : Byte) : hi8 (joinWord h l) = h := by
  apply BitVec.eq_of_toNat_eq
  rw [hi8_toNat, joinWord_toNat]
  have := l.isLt
  omega

/-! ## The decoder by forms -/

/-- The instruction a form makes of exactly these operand bytes (R112, R113). -/
def Form.fill : Form → List Byte → Option Instr
  | .f1 i, [] => some i
  | .f2 k, [b] => some (k b)
  | .f3 k, [l, h] => some (k (joinWord h l))
  | _, _ => none

/-- The decoder takes the operand bytes that the first byte's form asks for (R114). -/
theorem decode_of_fill {b0 : Byte} {f : Form} {ops : List Byte} {i : Instr} (hf : opcodeForm b0 = some f) (hi : f.fill ops = some i)
    (rest : List Byte) : decode (b0 :: (ops ++ rest)) = .instr i rest := by
  unfold Form.fill at hi
  split at hi
  case h_4 => cases hi
  all_goals
    cases hi
    simp [decode, hf]

/-- Whatever decodes consists of a listed first byte, the operand bytes of its form, and the rest. -/
theorem exists_fill_of_decode {bs rest : List Byte} {i : Instr} (h : decode bs = .instr i rest) :
    ∃ b0 f ops, opcodeForm b0 = some f ∧ f.fill ops = some i ∧ bs = b0 :: (ops ++ rest) := by
  cases bs with
  | nil => cases h
  | cons b0 bytes =>
    simp only [decode] at h
    split at h
    next => cases h
    next j hf => cases h; exact ⟨b0, _, [], hf, rfl, rfl⟩
    next k b1 bytes hf => cases h; exact ⟨b0, _, [b1], hf, rfl, rfl⟩
    next k b1 b2 bytes hf => cases h; exact ⟨b0, _, [b1, b2], hf, rfl, rfl⟩
    next => cases h

theorem decode_eq_unknownOpcode_iff {b0 : Byte} {rest : List Byte} :
    decode (b0 :: rest) = .unknownOpcode b0 ↔ opcodeForm b0 = none := by
  cases hf : opcodeForm b0 with
  | none => simp [decode, hf]
  | some f =>
    simp only [decode, hf]
    split
    next h => cases h
    all_goals simp

/-! ## The two tables agree -/

/-- The encoder's row of an instruction is found in the decoder's matrix, under a form that its operand bytes fill (R120, R121). -/
theorem exists_fill_operand (i : Instr) : ∃ f, opcodeForm i.row.opcode = some f ∧ f.fill i.operand = some i := by
  cases i
  all_goals
    simp only [Instr.row, Instr.operand]
    refine ⟨_, rfl, ?_⟩
    simp only [Form.fill, joinWord_hi_lo]

/-- The encoder writes `b0` and then the operand, low byte first, for every instruction of this form (R112, R113). -/
def Form.EncodedAs (b0 : Byte) : Form → Prop
  | .f1 i => encode i = [b0]
  | .f2 k => ∀ b, encode (k b) = [b0, b]
  | .f3 k => ∀ w, encode (k w) = [b0, lo8 w, hi8 w]

/-- Each entry of the decoder's matrix stands for instructions that the encoder writes with that byte (R120, R121). -/
theorem encodedAs_of_opcodeForm {b0 : Byte} {f : Form} (h : opcodeForm b0 = some f) : f.EncodedAs b0 := by
  have hb : b0 = BitVec.ofNat 8 (16 * (b0.toNat / 16) + b0.toNat % 16) := by rw [Nat.div_add_mod, BitVec.ofNat_toNat, BitVec.setWidth_eq]
  unfold opcodeForm at h
  generalize b0.toNat / 16 = hi at h hb
  generalize b0.toNat % 16 = lo at h hb
  subst hb
  split at h
  case h_17 => cases h
  all_goals
    simp only [opcodeRow0, opcodeRow1, opcodeRow2, opcodeRow3, opcodeRow4, opcodeRow5, opcodeRow6, opcodeRow7, opcodeRow8, opcodeRow9,
      opcodeRowA, opcodeRowB, opcodeRowC, opcodeRowD, opcodeRowE, opcodeRowF] at h
    split at h
  all_goals cases h
  all_goals simp [Form.EncodedAs, encode, Instr.row, Instr.operand]

theorem encode_of_fill {b0 : Byte} {f : Form} {ops : List Byte} {i : Instr} (hf : opcodeForm b0 = some f) (hi : f.fill ops = some i) :
    encode i = b0 :: ops := by
  have he := encodedAs_of_opcodeForm hf
  unfold Form.fill at hi
  split at hi
  next j => cases hi; exact he
  next k b => cases hi; exact he b
  next k l h => cases hi; simpa using he (joinWord h l)
  next => cases hi

/-! ## The obligations -/

/-- Settles O1: the row of `i` is in the matrix, and its form takes back the operand bytes. -/
theorem decodeOfEncode : Obligations.DecodeOfEncode := by
  intro i rest
  obtain ⟨f, hf, hi⟩ := exists_fill_operand i
  exact decode_of_fill hf hi rest

/-- Settles O2: what was decoded is an entry of the matrix, which the encoder writes with the same bytes. -/
theorem encodeOfDecode : Obligations.EncodeOfDecode := by
  intro bs i rest h
  obtain ⟨b0, f, ops, hf, hi, rfl⟩ := exists_fill_of_decode h
  rw [encode_of_fill hf hi, List.cons_append]

/-- A table word that begins with the bytes of `i` decodes to `i`. -/
theorem decodeTableWord_of_encode {nbits w : Nat} {i : Instr} (h : encode i <+: wordBytes nbits w) : decodeTableWord nbits w = some i := by
  obtain ⟨rest, h⟩ := h
  rw [decodeTableWord, ← h, decodeOfEncode]

/-- Settles O3: each word begins with the bytes of its instruction. -/
theorem specWordsDecode : Obligations.SpecWordsDecode := by
  and_intros
  all_goals exact decodeTableWord_of_encode (by decide)

/-- The empty cells of the matrix, in ascending order (R121). -/
def unknownOpcodes : List Byte := ((List.range 256).map (BitVec.ofNat 8)).filter fun b0 => (opcodeForm b0).isNone

theorem mem_unknownOpcodes {b0 : Byte} : b0 ∈ unknownOpcodes ↔ opcodeForm b0 = none := by
  have hb : ∃ n < 256, BitVec.ofNat 8 n = b0 := ⟨b0.toNat, b0.isLt, by simp⟩
  simpa [unknownOpcodes] using fun _ => hb

theorem nodup_unknownOpcodes : unknownOpcodes.Nodup := by
  refine (List.Nodup.map_on (fun m hm n hn h => ?_) List.nodup_range).filter _
  have hmn : m % 2 ^ 8 = n % 2 ^ 8 := by simpa only [BitVec.toNat_ofNat] using congrArg BitVec.toNat h
  rw [List.mem_range] at hm hn
  omega

/-- Settles O4: the list of R122 is the list of the matrix's empty cells. -/
theorem unknownOpcodesAreTheListed105 : Obligations.UnknownOpcodesAreTheListed105 := by
  unfold Obligations.UnknownOpcodesAreTheListed105
  intro listed
  have h : listed = unknownOpcodes := by decide
  refine ⟨rfl, h ▸ nodup_unknownOpcodes, fun b0 rest => ?_⟩
  rw [h, mem_unknownOpcodes, decode_eq_unknownOpcode_iff]

end Sys2Proof
end

section
/-! One step on plain bytes (spec/40_step_and_addressing.md R150 to R183): the fetch, the step and the host's one-instruction entry points,
the resolver in ordinary numbers, and the stack operations on any memory. -/

namespace Sys2Proof.Machine

/-! ## The fetch of plain bytes (R151, R152) -/

theorem bytesAt_succ_eq_cons {s : State} {a : Word} {n : Nat} {b : Byte} {bs : List Byte} :
    s.bytesAt a (n + 1) = some (b :: bs) ↔ s.peek a = some b ∧ s.bytesAt (a + 1#16) n = some bs := by
  simp [State.bytesAt, Option.bind_eq_some_iff]

theorem length_of_bytesAt {s : State} {a : Word} {n : Nat} {bs : List Byte} (h : s.bytesAt a n = some bs) : bs.length = n := by
  induction n generalizing a bs with
  | zero => cases h; rfl
  | succ n ih =>
    obtain ⟨b, -, h⟩ := Option.bind_eq_some_iff.mp h
    obtain ⟨rest, hrest, rfl⟩ := Option.map_eq_some_iff.mp h
    rw [List.length_cons, ih hrest]

theorem fetchBytes_of_bytesAt {s : State} {a : Word} {bs : List Byte} (h : s.bytesAt a bs.length = some bs) :
    fetchBytes bs.length a s = .next (bs, s) := by
  induction bs generalizing a with
  | nil => rfl
  | cons b bs ih =>
    obtain ⟨hb, hbs⟩ := bytesAt_succ_eq_cons.mp h
    simp only [List.length_cons, fetchBytes, memRead_of_peek hb, andThen_next, ih hbs]

/-- A form is filled by as many operand bytes as its length leaves room for (R112, R114). -/
theorem length_of_fill {f : Form} {ops : List Byte} {i : Instr} (h : f.fill ops = some i) : f.length = ops.length + 1 := by
  unfold Form.fill at h
  split at h
  case h_4 => cases h
  all_goals rfl

/-- Plain bytes that spell an instruction are fetched as that instruction, which changes nothing. -/
theorem fetch_of_bytesAt {s : State} {i : Instr} {n : Nat} {bs : List Byte} (hb : s.bytesAt s.pc n = some bs)
    (hd : decode bs = .instr i []) : fetch s = .next (.known i, s) := by
  obtain rfl := length_of_bytesAt hb
  obtain ⟨b0, f, ops, hf, hi, hbs⟩ := exists_fill_of_decode hd
  rw [List.append_nil] at hbs
  subst hbs
  obtain ⟨hopcode, hops⟩ := bytesAt_succ_eq_cons.mp hb
  have hlength : opcodeLength b0 = some (ops.length + 1) := by rw [opcodeLength, hf, Option.map_some, length_of_fill hi]
  simp only [fetch, memRead_of_peek hopcode, andThen_next, hlength, Nat.add_sub_cancel, fetchBytes_of_bytesAt hops, hd]

/-! ## The step and the single-instruction entry points (R150, R155, R157, R333) -/

/-- Nothing is left to do after a sequence whose second part only hands on what the first gave. -/
theorem andThen_next_right {α : Type} (r : Result α) : andThen r .next = r := by cases r <;> rfl

theorem observe_of_none {n : Nat} {s : State} (h : s.params.observer = none) : observe n s = .next s := by
  simp only [observe, h]

/-- The poll takes no interrupt where NMI is not pending and IRQ is not pending or masked (R333). -/
theorem poll_of_quiet {s : State} (hn : s.nmi = false) (hi : s.irq = false ∨ flagI s.p = true) : poll s = .next s := by
  have hirq : (s.irq && !flagI s.p) = false := by rcases hi with hi | hi <;> simp [hi]
  simp [poll, hn, hirq]

/-- Settles O5: the fetch of plain bytes changes nothing, so the step is what follows it. -/
theorem stepRunsDecodedInstruction : Obligations.StepRunsDecodedInstruction := by
  intro s i bs hb hd
  rw [step, fetch_of_bytesAt hb hd]
  rfl

/-- Settles O6: after the instruction, neither the observer window nor the poll has anything to do. -/
theorem quietStepIsTheInstruction : Obligations.QuietStepIsTheInstruction := by
  intro s t i bs hb hd ho he hn hi
  have hobserver : t.params.observer = none := by rw [(exec_setup he).params, ho]
  rw [stepRunsDecodedInstruction s i bs hb hd, he, andThen_next, observe_of_none hobserver, andThen_next, poll_of_quiet hn hi]

/-- Settles O60: with its poll the call is the step; without it, what follows the fetch of plain bytes is the instruction, and Minimal puts
the counters back. -/
theorem singleInstructionEntryPoints : Obligations.SingleInstructionEntryPoints := by
  refine ⟨fun s => rfl, fun s t i bs hb hd he => ⟨?_, ?_⟩⟩
  · simp only [executeOneInstruction, fetch_of_bytesAt hb hd, he, andThen_next, Bool.false_eq_true, if_false]
    exact andThen_next_right _
  · simp only [executeOneInstructionMinimal, fetch_of_bytesAt hb hd, he, andThen_next, Bool.false_eq_true, if_false]

/-- The identity is a change of P that the machine does not see. -/
theorem unseen_id : Unseen id := fun _ _ => rfl

/-- Settles O54: higher counters are part of what a step carries along unseen. -/
theorem countersNeverRead : Obligations.CountersNeverRead := fun _ _ _ _ h => step_recast unseen_id h

/-! ## The resolver in ordinary numbers (R164 to R173) -/

/-- Adding an index leaves the page exactly where the low byte and the index carry (R169, R170, R173). -/
theorem page_bne_eq_carry {b x : Nat} (hb : b < 65536) (hx : x < 256) :
    (b / 256 != (b + x) % 65536 / 256) = decide (256 ≤ b % 256 + x) := by
  rw [Bool.eq_iff_iff, bne_iff_ne, decide_eq_true_iff]
  omega

theorem pointer_of_peek {s : State} {z : Nat} {lo hi : Byte} (hl : s.peek (BitVec.ofNat 16 (z % 256)) = some lo)
    (hh : s.peek (BitVec.ofNat 16 ((z + 1) % 256)) = some hi) : s.pointer z = some (hi.toNat * 256 + lo.toNat) := by
  simp only [State.pointer, State.peekWord, hl, hh, Option.bind_some, Option.map_some, ← joinWord_eq, joinWord_toNat]

/-- Settles O9: `State.effective` with its two flags written as carries. -/
theorem effectiveAddresses : Obligations.EffectiveAddresses := by
  intro s d w
  refine ⟨resolve_of_effective rfl, resolve_of_effective rfl, resolve_of_effective rfl, rfl, ?_, ?_, fun lo hi hl hh => ?_,
    fun lo hi hl hh => ?_⟩
  · rw [← page_bne_eq_carry w.isLt s.x.isLt]
    exact resolve_of_effective rfl
  · rw [← page_bne_eq_carry w.isLt s.y.isLt]
    exact resolve_of_effective rfl
  · refine resolve_of_effective ?_
    rw [State.effective, pointer_of_peek hl hh, Option.map_some]
  · have hp : s.pointer d.toNat = some (hi.toNat * 256 + lo.toNat) := pointer_of_peek (by rwa [Nat.mod_eq_of_lt d.isLt]) hh
    have hcarry := page_bne_eq_carry (joinWord hi lo).isLt s.y.isLt
    rw [joinWord_toNat, Nat.mul_add_mod_of_lt lo.isLt] at hcarry
    rw [← hcarry]
    refine resolve_of_effective ?_
    rw [State.effective, hp, Option.map_some]

/-! ## The stack operations on any memory (R180 to R183) -/

theorem stackAddress_eq_ofNat (sp : Byte) : stackAddress sp = BitVec.ofNat 16 (256 + sp.toNat) := by
  rw [stackAddress, zext16_eq, BitVec.ofNat_add]

theorem hi8_eq (w : Word) : hi8 w = BitVec.ofNat 8 (w.toNat / 256) := by rw [← hi8_toNat, BitVec.ofNat_toNat, BitVec.setWidth_eq]

theorem lo8_eq (w : Word) : lo8 w = BitVec.ofNat 8 (w.toNat % 256) := by rw [← lo8_toNat, BitVec.ofNat_toNat, BitVec.setWidth_eq]

/-- Settles O10: the operations are those sequences, with their addresses and bytes in ordinary numbers. -/
theorem pushAndPull : Obligations.PushAndPull := by
  refine ⟨fun v s => ?_, fun s => ?_, fun w s => ?_, fun s => ?_⟩
  · simp only [push, stackAddress_eq_ofNat, byte_sub_one]
  · rw [pull, stackAddress_add_one, byte_add_one, stackAbove]
  · rw [pushWord, hi8_eq, lo8_eq]
  · simp only [pullWord, joinWord_eq]

end Sys2Proof.Machine
end

section
/-! Loads, stores and transfers (spec/41_load_store_transfer.md R200 to R212): what an instruction that reads its operand or stores a
register does in terms of the operand its mode and bytes spell (R113, R175), so that all forms of a mnemonic are one case; and the moves
between registers. -/

namespace Sys2Proof.Machine

/-! ## The operand an instruction spells is the one it uses -/

/-- The mnemonics that read one value operand and write no memory (R200, R240, R250). -/
def operandReaders : List Mnemonic := [.lda, .ldx, .ldy, .and, .ora, .eor, .bit, .adc, .sbc, .cmp, .cpx, .cpy]

theorem exec_of_source {i : Instr} {src : Src} (hm : i.row.mnemonic ∈ operandReaders) (hsrc : sourceOf i = some src) (s : State) :
    exec i s = readShape i src (effectOf i) s := by
  cases i with
  | ldaImm | ldaZp | ldaZpX | ldaAbs | ldaAbsX | ldaAbsY | ldaIndX | ldaIndY | ldxImm | ldxZp | ldxZpY | ldxAbs | ldxAbsY
  | ldyImm | ldyZp | ldyZpX | ldyAbs | ldyAbsX
  | andImm | andZp | andZpX | andAbs | andAbsX | andAbsY | andIndX | andIndY
  | oraImm | oraZp | oraZpX | oraAbs | oraAbsX | oraAbsY | oraIndX | oraIndY
  | eorImm | eorZp | eorZpX | eorAbs | eorAbsX | eorAbsY | eorIndX | eorIndY | bitZp | bitAbs
  | adcImm | adcZp | adcZpX | adcAbs | adcAbsX | adcAbsY | adcIndX | adcIndY
  | sbcImm | sbcZp | sbcZpX | sbcAbs | sbcAbsX | sbcAbsY | sbcIndX | sbcIndY
  | cmpImm | cmpZp | cmpZpX | cmpAbs | cmpAbsX | cmpAbsY | cmpIndX | cmpIndY
  | cpxImm | cpxZp | cpxAbs | cpyImm | cpyZp | cpyAbs =>
    simp only [sourceOf, Instr.row, Instr.operand, word_of_hi_lo, Option.some.injEq] at hsrc
    subst hsrc
    rfl
  | _ => simp [Instr.row, operandReaders] at hm

/-- Reading a plain operand: the effect of the mnemonic, and nothing else but PC and the counters (R153, R154, R191). -/
theorem exec_of_value {i : Instr} {s : State} {src : Src} {v : Byte} {crossed : Bool} (hm : i.row.mnemonic ∈ operandReaders)
    (hsrc : sourceOf i = some src) (hv : s.value src = some (v, crossed)) :
    exec i s = .next ((effectOf i v s).completed i (readCycles i crossed)) := by
  rw [exec_of_source hm hsrc, readShape_of_value hv]

/-- The register a store writes (R204 to R206). -/
def StoresRegister (m : Mnemonic) (s : State) (r : Byte) : Prop := m = .sta ∧ r = s.a ∨ m = .stx ∧ r = s.x ∨ m = .sty ∧ r = s.y

theorem exec_of_target {i : Instr} {s : State} {e : Ea} {r : Byte} (hr : StoresRegister i.row.mnemonic s r)
    (he : targetOf i = some e) : exec i s = storeShape i e r s := by
  cases i with
  | staZp | staZpX | staAbs | staAbsX | staAbsY | staIndX | staIndY | stxZp | stxZpY | stxAbs | styZp | styZpX | styAbs =>
    simp only [targetOf, sourceOf, Instr.row, Instr.operand, word_of_hi_lo, Option.some.injEq] at he
    obtain rfl : r = _ := by simpa [StoresRegister, Instr.row] using hr
    subst he
    rfl
  | _ => simp [StoresRegister, Instr.row] at hr

/-! ## Loads and stores -/

/-- Settles O11: the effect of a load is `loadA`, `loadX` or `loadY`, whatever its mode. -/
theorem loadResult : Obligations.LoadResult := by
  intro i s src v crossed hsrc hv
  refine ⟨fun hm => ?_, fun hm => ?_, fun hm => ?_⟩
  all_goals
    rw [exec_of_value (hm ▸ by decide) hsrc hv, effectOf, hm, ← setNZ_eq]
    rfl

/-- Settles O12: a store is one plain write at its effective address, whose frame is that of the write. -/
theorem storeResult : Obligations.StoreResult := by
  intro i s t e ea r hr he ha hp
  refine ⟨?_, poke_stores hp, poke_sameBytesBut hp, fun b hb => peek_of_poke_shares hp hb⟩
  rw [exec_of_target hr he, storeShape_of_poke ha hp]

/-! ## Transfers -/

/-- SP goes up or down by at most three, modulo 256. -/
def SpMovesByAtMostThree (sp sp' : Byte) : Prop :=
  ∃ k ≤ 3, sp' = BitVec.ofNat 8 (sp.toNat + k) ∨ sp' = BitVec.ofNat 8 (sp.toNat + 256 - k)

/-- Every instruction but TXS leaves SP alone, or moves it by the bytes it pushes or pulls (R22, R212). -/
theorem exec_sp_moves {i : Instr} {s t : State} (h : exec i s = .next t) (hm : i.row.mnemonic ≠ .txs) :
    SpMovesByAtMostThree s.sp t.sp := by
  obtain ⟨-, -, -, hkeep, hpush, hpull, hjsr, hrts, hbrk, hrti, -⟩ := registerWriters i s t h
  generalize i.row.mnemonic = m at hm hkeep hpush hpull hjsr hrts hbrk hrti
  cases m with
  | txs => exact absurd rfl hm
  | pha | php => exact ⟨1, by decide, .inr (hpush (by decide))⟩
  | pla | plp => exact ⟨1, by decide, .inl (hpull (by decide))⟩
  | jsr => exact ⟨2, by decide, .inr (hjsr rfl)⟩
  | rts => exact ⟨2, by decide, .inl (hrts rfl)⟩
  | brk => exact ⟨3, by decide, .inr (hbrk rfl)⟩
  | rti => exact ⟨3, by decide, .inl (hrti rfl)⟩
  | _ => exact ⟨0, by decide, .inl (by simpa using hkeep (by decide))⟩

/-- Settles O13: each transfer is its effect on the registers; SP moves as `exec_sp_moves` says. -/
theorem transferResult : Obligations.TransferResult := by
  refine ⟨rfl, rfl, rfl, rfl, rfl, rfl, fun s => ⟨?_, ?_, ?_, ?_, ?_, ?_, fun i t h hm => exec_sp_moves h hm⟩⟩
  all_goals
    simp only [exec_tax, exec_tay, exec_txa, exec_tya, exec_tsx, exec_txs, registerShape_eq, ← setNZ_eq]
    rfl

end Sys2Proof.Machine
end

section
/-! The stack instructions (spec/42_stack.md R231 to R234) on a plain page-1 byte: one equation for the two pushes and one for the two
pulls, from which the four results follow. -/

namespace Sys2Proof.Machine

theorem exec_of_push {i : Instr} {s t : State} {v : Byte} (hx : exec i s = andThen (push v s) (finish i 0))
    (hp : s.poke (stackBelow s.sp 0) v = some t) :
    exec i s = .next { t.completed i i.row.cycles with sp := BitVec.ofNat 8 (s.sp.toNat + 255) } := by
  rw [hx, push_plain hp, andThen_next, finish, completed_eq, byte_sub_one, Nat.add_zero]
  rfl

theorem exec_of_pull {i : Instr} {s : State} {v : Byte} {effect : Byte → State → State}
    (hx : exec i s = andThen (pull s) fun (b, u) => finish i 0 (effect b u)) (hv : s.peek (stackAbove s.sp 1) = some v) :
    exec i s = .next ((effect v { s with sp := BitVec.ofNat 8 (s.sp.toNat + 1) }).completed i i.row.cycles) := by
  rw [← stackAddress_add_one] at hv
  simp only [hx, pull_of_peek hv, andThen_next, finish, completed_eq, byte_add_one, Nat.add_zero]

/-- Settles O14: a push is one plain write, whose frame is that of the write; a pull is one plain read, whose byte goes to A with Z and N
or to the six flags that a status load takes. -/
theorem stackInstructionResult : Obligations.StackInstructionResult := by
  refine ⟨fun i s t v hi hp => ⟨?_, poke_stores hp, poke_sameBytesBut hp⟩, fun s v hv => ⟨?_, ?_⟩⟩
  · obtain ⟨rfl, rfl⟩ | ⟨rfl, rfl⟩ := hi
    · exact exec_of_push (exec_pha s) hp
    · rw [← brokenCopy_eq] at hp
      exact exec_of_push (exec_php s) hp
  · rw [exec_of_pull (exec_pla s) hv, loadA, setNZ_eq]
    rfl
  · rw [exec_of_pull (effect := fun b => status (pulledStatus b)) (exec_plp s) hv, status, pulledStatus_eq]
    rfl

end Sys2Proof.Machine
end

section
/-! Logic and the bit test (spec/43_logic_bit.md R240 to R244): what an instruction that combines A with a plain operand comes to in terms
of its ALU operation, and the ALU operations in the form the rules give them. -/

namespace Sys2Proof.Machine

/-! ## Instructions that combine A with their operand -/

/-- Whatever the mode: A and P become what the ALU operation gives (R240, R250). -/
theorem exec_accumulate_of_value {alu : Byte → Byte → Byte → Byte × Byte} {i : Instr} {s : State} {src : Src} {m r p : Byte}
    {crossed : Bool} (hm : i.row.mnemonic ∈ operandReaders) (heffect : effectOf i m s = accumulate alu m s)
    (halu : alu s.p s.a m = (r, p)) (hsrc : sourceOf i = some src) (hv : s.value src = some (m, crossed)) :
    exec i s = .next { s.completed i (readCycles i crossed) with a := r, p := p } := by
  rw [exec_of_value hm hsrc hv, heffect, accumulate, halu]
  rfl

/-! ## AND, ORA, EOR -/

theorem andAlu_eq (p a m : Byte) : andAlu p a m = (a &&& m, withNZ p (a &&& m)) := by rw [andAlu, setNZ_eq]

theorem oraAlu_eq (p a m : Byte) : oraAlu p a m = (a ||| m, withNZ p (a ||| m)) := by rw [oraAlu, setNZ_eq]

theorem eorAlu_eq (p a m : Byte) : eorAlu p a m = (a ^^^ m, withNZ p (a ^^^ m)) := by rw [eorAlu, setNZ_eq]

/-- Settles O15: each of the three is its ALU operation on A and the operand, whatever its mode. -/
theorem logicResult : Obligations.LogicResult := by
  intro i s src m r crossed hsrc hv hr
  obtain ⟨hm, rfl⟩ | ⟨hm, rfl⟩ | ⟨hm, rfl⟩ := hr
  · exact exec_accumulate_of_value (hm ▸ by decide) (by rw [effectOf, hm, registerEffect]) (andAlu_eq _ _ _) hsrc hv
  · exact exec_accumulate_of_value (hm ▸ by decide) (by rw [effectOf, hm, registerEffect]) (oraAlu_eq _ _ _) hsrc hv
  · exact exec_accumulate_of_value (hm ▸ by decide) (by rw [effectOf, hm, registerEffect]) (eorAlu_eq _ _ _) hsrc hv

/-! ## BIT -/

/-- An instruction without a page penalty takes its base cycles, whether or not its index crossed a page (R191). -/
theorem readCycles_of_penalty_ne_page {i : Instr} (h : i.row.penalty ≠ .page) (crossed : Bool) : readCycles i crossed = i.row.cycles := by
  rw [readCycles, if_neg fun hp => h hp.1, Nat.add_zero]

/-- Neither form of BIT is indexed (R244). -/
theorem penalty_of_bit {i : Instr} (h : i.row.mnemonic = .bit) : i.row.penalty = .none := by
  cases i with
  | bitZp | bitAbs => rfl
  | _ => cases h

/-- Settles O16: BIT is its ALU operation on P, A and the operand, in either mode, and takes no page penalty. -/
theorem bitResult : Obligations.BitResult := by
  intro i s src m crossed hm hsrc hv
  have hcycles : readCycles i crossed = i.row.cycles := readCycles_of_penalty_ne_page (by simp [penalty_of_bit hm]) crossed
  rw [exec_of_value (hm ▸ by decide) hsrc hv, hcycles, effectOf, hm, ← bitAlu_eq]
  rfl

end Sys2Proof.Machine
end

section
/-! Arithmetic and compare (spec/44_arithmetic_compare.md R250 to R259): the ALU operations of ADC and SBC in ordinary numbers, from which
their results in every mode follow; what these results mean for signed and for decimal numbers. -/

namespace Sys2Proof.Machine

/-! ## Bytes and flags in ordinary numbers -/

theorem high_digit (v : Byte) : (v &&& 0xF0#8).toNat = v.toNat / 16 * 16 := by revert v; decide

theorem byte_toInt (v : Byte) : v.toInt = if v.toNat < 128 then (v.toNat : Int) else v.toNat - 256 := by revert v; decide

theorem byte_ofNat_mod (n : Nat) : BitVec.ofNat 8 (n % 256) = BitVec.ofNat 8 n := by
  apply BitVec.eq_of_toNat_eq
  rw [BitVec.toNat_ofNat, BitVec.toNat_ofNat, Nat.mod_mod]

/-- An integer modulo 256, as a byte (R7). -/
theorem byte_ofInt (d : Int) : BitVec.ofInt 8 d = BitVec.ofNat 8 (d % 256).toNat := by
  apply BitVec.eq_of_toNat_eq
  rw [BitVec.toNat_ofInt, BitVec.toNat_ofNat]
  omega

theorem sign_ofNat_emod (d : Int) : decide (128 ≤ (BitVec.ofNat 8 (d % 256).toNat).toNat) = decide (128 ≤ d % 256) := by
  rw [BitVec.toNat_ofNat, decide_eq_decide]
  omega

theorem zero_ofNat_emod (d : Int) : decide ((BitVec.ofNat 8 (d % 256).toNat).toNat = 0) = decide (d % 256 = 0) := by
  rw [BitVec.toNat_ofNat, decide_eq_decide]
  omega

/-- The four flags of decimal ADC, in the order it writes them (R252). -/
theorem setN_setV_setZ_setC_eq (n v z c : Bool) (p : Byte) : setN n (setV v (setZ z (setC c p))) = withNZCV p n z c v := by
  conv_lhs => rw [← statusByte_flags p]
  simp [withNZCV]

theorem bne_eq_decide_ne (v w : Byte) : (v != w) = decide (v ≠ w) := by rw [bne, beq_eq_decide, decide_not]

/-! ## The binary sum and difference (R251, R253) -/

/-- `s` of R251. -/
def binarySum (p a m : Byte) : Nat := a.toNat + m.toNat + (flagC p).toNat

/-- `d` of R253. -/
def binaryDifference (p a m : Byte) : Int := (a.toNat : Int) - m.toNat - (1 - (flagC p).toNat)

theorem adcBinary_eq (p a m : Byte) :
    let r : Byte := BitVec.ofNat 8 (binarySum p a m)
    adcBinary p a m = (r, withNZCV p (decide (128 ≤ binarySum p a m % 256)) (decide (binarySum p a m % 256 = 0))
      (decide (256 ≤ binarySum p a m)) (decide ((a ^^^ r) &&& (m ^^^ r) &&& 0x80#8 ≠ 0x00#8))) := by
  simp only [adcBinary, setNZ_setV_setC_eq, bne_eq_decide_ne, BitVec.toNat_ofNat]
  rfl

theorem sbcBinary_eq (p a m : Byte) :
    let r : Byte := BitVec.ofNat 8 (binaryDifference p a m % 256).toNat
    sbcBinary p a m = (r, withNZCV p (decide (128 ≤ binaryDifference p a m % 256)) (decide (binaryDifference p a m % 256 = 0))
      (decide (0 ≤ binaryDifference p a m)) (decide ((a ^^^ m) &&& (a ^^^ r) &&& 0x80#8 ≠ 0x00#8))) := by
  simp only [sbcBinary, binaryDifference, setNZ_setV_setC_eq, bne_eq_decide_ne, byte_ofInt, sign_ofNat_emod, zero_ofNat_emod]
  rfl

/-! ## The decimal sum and difference (R252, R254) -/

/-- `al` of R252: the low digits and the carry, corrected. -/
def lowDigitSum (p a m : Byte) : Nat :=
  let low := a.toNat % 16 + m.toNat % 16 + (flagC p).toNat
  if 10 ≤ low then (low + 6) % 16 + 16 else low

/-- `t` of R252, before the correction of its high digit. -/
def digitSum (p a m : Byte) : Nat := a.toNat / 16 * 16 + m.toNat / 16 * 16 + lowDigitSum p a m

/-- `t` of R252, its high digit corrected. -/
def decimalSum (p a m : Byte) : Nat := if 160 ≤ digitSum p a m then digitSum p a m + 96 else digitSum p a m

/-- `ts` of R252: `digitSum` of the signed high digits. -/
def signedDigitSum (p a m : Byte) : Int := (a &&& 0xF0#8).toInt + (m &&& 0xF0#8).toInt + lowDigitSum p a m

/-- `al` of R254: the low digits' difference, corrected. -/
def lowDigitDifference (p a m : Byte) : Int :=
  let low : Int := ((a.toNat % 16 : Nat) : Int) - ((m.toNat % 16 : Nat) : Int) + (flagC p).toNat - 1
  if low < 0 then (low - 6) % 16 - 16 else low

/-- `t` of R254, before the correction of its high digit. -/
def digitDifference (p a m : Byte) : Int :=
  ((a.toNat / 16 * 16 : Nat) : Int) - ((m.toNat / 16 * 16 : Nat) : Int) + lowDigitDifference p a m

/-- `t` of R254, its high digit corrected. -/
def decimalDifference (p a m : Byte) : Int :=
  if digitDifference p a m < 0 then digitDifference p a m - 96 else digitDifference p a m

theorem adcDecimal_eq (p a m : Byte) :
    adcDecimal p a m = (BitVec.ofNat 8 (decimalSum p a m % 256), withNZCV p (decide (128 ≤ digitSum p a m % 256))
      (decide (binarySum p a m % 256 = 0)) (decide (256 ≤ decimalSum p a m))
      (decide (signedDigitSum p a m < -128 ∨ 127 < signedDigitSum p a m))) := by
  simp only [adcDecimal, setN_setV_setZ_setC_eq, high_digit, sign_test, beq_eq_decide, byte_ofNat_mod, BitVec.toNat_ofNat]
  rfl

theorem sbcDecimalValue_eq (p a m : Byte) : sbcDecimalValue p a m = BitVec.ofNat 8 (decimalDifference p a m % 256).toNat := by
  rw [sbcDecimalValue, high_digit, high_digit, byte_ofInt]
  rfl

theorem adcAlu_of_binary {p : Byte} (h : flagD p = false) (a m : Byte) : adcAlu p a m = adcBinary p a m := by
  rw [adcAlu, h, if_neg Bool.false_ne_true]

theorem adcAlu_of_decimal {p : Byte} (h : flagD p = true) (a m : Byte) : adcAlu p a m = adcDecimal p a m := by
  rw [adcAlu, if_pos h]

theorem sbcAlu_of_binary {p : Byte} (h : flagD p = false) (a m : Byte) : sbcAlu p a m = sbcBinary p a m := by
  rw [sbcAlu, h, if_neg Bool.false_ne_true]

theorem sbcAlu_of_decimal {p : Byte} (h : flagD p = true) (a m : Byte) :
    sbcAlu p a m = (sbcDecimalValue p a m, (sbcBinary p a m).2) := by
  rw [sbcAlu, if_pos h]

/-! ## ADC, SBC and the compares in every mode -/

/-- The ALU operation of the two arithmetic mnemonics (R251, R253). -/
def ArithmeticAlu (m : Mnemonic) (alu : Byte → Byte → Byte → Byte × Byte) : Prop :=
  m = .adc ∧ alu = adcAlu ∨ m = .sbc ∧ alu = sbcAlu

theorem exec_arithmetic_of_value {alu : Byte → Byte → Byte → Byte × Byte} {i : Instr} {s : State} {src : Src} {m r p : Byte}
    {crossed : Bool} (hi : ArithmeticAlu i.row.mnemonic alu) (hsrc : sourceOf i = some src) (hv : s.value src = some (m, crossed))
    (halu : alu s.p s.a m = (r, p)) : exec i s = .next { s.completed i (readCycles i crossed) with a := r, p := p } := by
  obtain ⟨hm, rfl⟩ | ⟨hm, rfl⟩ := hi
  all_goals exact exec_accumulate_of_value (hm ▸ by decide) (by rw [effectOf, hm, registerEffect]) halu hsrc hv

/-- Settles O17: ADC with D clear is its binary sum. -/
theorem adcBinaryResult : Obligations.AdcBinaryResult := by
  intro i s src m crossed hm hsrc hv hd
  exact exec_arithmetic_of_value (.inl ⟨hm, rfl⟩) hsrc hv ((adcAlu_of_binary hd s.a m).trans (adcBinary_eq s.p s.a m))

/-- Settles O18: ADC with D set is its decimal sum; `signedDigitSum` reads the high digits as signed bytes. -/
theorem adcDecimalResult : Obligations.AdcDecimalResult := by
  intro i s src m crossed hm hsrc hv hd
  have halu := (adcAlu_of_decimal hd s.a m).trans (adcDecimal_eq s.p s.a m)
  rw [signedDigitSum, byte_toInt, byte_toInt, high_digit, high_digit] at halu
  exact exec_arithmetic_of_value (.inl ⟨hm, rfl⟩) hsrc hv halu

/-- Settles O19: SBC with D clear is its binary difference. -/
theorem sbcBinaryResult : Obligations.SbcBinaryResult := by
  intro i s src m crossed hm hsrc hv hd
  exact exec_arithmetic_of_value (.inr ⟨hm, rfl⟩) hsrc hv ((sbcAlu_of_binary hd s.a m).trans (sbcBinary_eq s.p s.a m))

/-- Settles O20: SBC with D set writes the decimal difference to A, with the flags of the binary one. -/
theorem sbcDecimalResult : Obligations.SbcDecimalResult := by
  intro i s src m crossed hm hsrc hv hd
  have halu := sbcAlu_of_decimal hd s.a m
  rw [sbcDecimalValue_eq, sbcBinary_eq] at halu
  exact exec_arithmetic_of_value (.inr ⟨hm, rfl⟩) hsrc hv halu

/-- Settles O21: each of the three is one comparison of its register with the operand, whatever its mode. -/
theorem compareResult : Obligations.CompareResult := by
  intro i s src m r crossed hr hsrc hv
  obtain ⟨hm, rfl⟩ | ⟨hm, rfl⟩ | ⟨hm, rfl⟩ := hr
  all_goals
    rw [exec_of_value (hm ▸ by decide) hsrc hv, effectOf, hm, ← compareAlu_eq]
    rfl

/-! ## The binary forms on signed numbers (R251, R253, R259) -/

/-- Bit 7 is set exactly where a byte is negative as a signed number. -/
theorem sign_bit (v : Byte) : decide (v &&& 0x80#8 ≠ 0x00#8) = v.msb := by revert v; decide

theorem onesComplement_toNat (m : Byte) : (m ^^^ 0xFF#8).toNat = 255 - m.toNat := by revert m; decide

theorem onesComplement_toInt (m : Byte) : (m ^^^ 0xFF#8).toInt = -1 - m.toInt := by revert m; decide

/-- The sign of a sum modulo 256 differs from that of both summands exactly where the signed sum leaves -128..127. -/
theorem signs_differ_iff {a m c : Nat} (ha : a < 256) (hm : m < 256) (hc : c ≤ 1) (sum : Int)
    (hsum : sum = (if a < 128 then (a : Int) else a - 256) + (if m < 128 then (m : Int) else m - 256) + c) :
    (¬(128 ≤ a ↔ 128 ≤ (a + m + c) % 256) ∧ ¬(128 ≤ m ↔ 128 ≤ (a + m + c) % 256)) ↔ (sum < -128 ∨ 127 < sum) := by
  subst hsum
  split_ifs
  all_goals omega

/-- The overflow formula of R251 says that the signed sum leaves -128..127. -/
theorem flagV_adcBinary (p a m : Byte) :
    flagV (adcBinary p a m).2 = decide (a.toInt + m.toInt + (flagC p).toNat < -128 ∨ 127 < a.toInt + m.toInt + (flagC p).toNat) := by
  have hsigns := signs_differ_iff a.isLt m.isLt (flagC p).toNat_le (a.toInt + m.toInt + (flagC p).toNat) (by rw [byte_toInt, byte_toInt])
  rw [adcBinary_eq, withNZCV, flagV_statusByte, sign_bit, BitVec.msb_and, BitVec.msb_xor, BitVec.msb_xor, sign_test, sign_test, sign_test,
    BitVec.toNat_ofNat, binarySum, Bool.eq_iff_iff, decide_eq_true_iff, ← hsigns]
  simp only [Bool.and_eq_true, bne_iff_ne, ne_eq, decide_eq_decide]

/-- The bytes whose top bits are the overflow formulas of R253 and R251. -/
theorem overflowBits_onesComplement (a m r : Byte) : (a ^^^ m) &&& (a ^^^ r) = (a ^^^ r) &&& ((m ^^^ 0xFF#8) ^^^ r) := by
  ext i hi
  have hone : (0xFF#8)[i] = true := BitVec.getElem_allOnes i hi
  have hbit : ∀ x y z : Bool, ((x ^^ y) && (x ^^ z)) = ((x ^^ z) && ((y ^^ true) ^^ z)) := by decide
  simp only [BitVec.getElem_and, BitVec.getElem_xor, hone, hbit]

/-- Binary SBC is binary ADC of the operand's one's complement (R253). -/
theorem sbcBinary_eq_adcBinary (p a m : Byte) : sbcBinary p a m = adcBinary p a (m ^^^ 0xFF#8) := by
  have hd : binaryDifference p a m = (binarySum p a (m ^^^ 0xFF#8) : Int) - 256 := by
    have hm := m.isLt
    rw [binaryDifference, binarySum, onesComplement_toNat]
    omega
  have hr : (binaryDifference p a m % 256).toNat = binarySum p a (m ^^^ 0xFF#8) % 256 := by omega
  rw [sbcBinary_eq, adcBinary_eq, hr, byte_ofNat_mod, overflowBits_onesComplement]
  congr 2
  all_goals
    rw [decide_eq_decide]
    omega

/-- Settles O22: `flagV_adcBinary` for ADC, and for SBC as the ADC of the one's complement, whose signed value is `-1 - m`. -/
theorem binaryArithmeticForms : Obligations.BinaryArithmeticForms := by
  intro p a m
  have hsub := sbcBinary_eq_adcBinary p a m
  have hsum : a.toInt + (-1 - m.toInt) + (flagC p).toNat = a.toInt - m.toInt - (1 - (flagC p).toNat) := by omega
  refine ⟨flagV_adcBinary p a m, ?_, hsub⟩
  rw [hsub, flagV_adcBinary, onesComplement_toInt, hsum]

/-! ## Decimal mode on decimal numbers (R252, R254) -/

/-- The byte whose two decimal digits spell `n`. -/
def bcdByte (n : Nat) : Byte := BitVec.ofNat 8 (n / 10 * 16 + n % 10)

theorem bcdValue_lt_of_validBcd {v : Byte} (h : validBcd v) : bcdValue v < 100 := by
  obtain ⟨hhigh, hlow⟩ := h
  rw [bcdValue]
  omega

theorem bcdByte_toNat {n : Nat} (h : n < 100) : (bcdByte n).toNat = n / 10 * 16 + n % 10 := by
  rw [bcdByte, BitVec.toNat_ofNat]
  omega

theorem validBcd_bcdByte {n : Nat} (h : n < 100) : validBcd (bcdByte n) := by
  rw [validBcd, bcdByte_toNat h]
  omega

theorem bcdValue_bcdByte {n : Nat} (h : n < 100) : bcdValue (bcdByte n) = n := by
  rw [bcdValue, bcdByte_toNat h]
  omega

section
variable {p a m : Byte} (ha : validBcd a) (hm : validBcd m)
include ha hm

theorem lowDigitSum_of_validBcd {low : Nat} (h : low = a.toNat % 16 + m.toNat % 16 + (flagC p).toNat) :
    lowDigitSum p a m = low / 10 * 16 + low % 10 := by
  have hc := (flagC p).toNat_le
  obtain ⟨-, ha⟩ := ha
  obtain ⟨-, hm⟩ := hm
  rw [lowDigitSum, ← h]
  split
  all_goals omega

/-- Hundreds go to the carry, the rest is spelled in two digits. -/
theorem decimalSum_of_validBcd {sum : Nat} (h : sum = bcdValue a + bcdValue m + (flagC p).toNat) :
    decimalSum p a m = sum / 100 * 256 + (sum % 100 / 10 * 16 + sum % 100 % 10) := by
  subst h
  have hc := (flagC p).toNat_le
  have hlow := lowDigitSum_of_validBcd (p := p) ha hm rfl
  obtain ⟨haHigh, haLow⟩ := ha
  obtain ⟨hmHigh, hmLow⟩ := hm
  rw [decimalSum, digitSum, bcdValue, bcdValue]
  split
  all_goals omega

theorem lowDigitDifference_of_validBcd {low : Int}
    (h : low = ((a.toNat % 16 : Nat) : Int) - ((m.toNat % 16 : Nat) : Int) + (flagC p).toNat - 1) :
    lowDigitDifference p a m = low / 10 * 16 + low % 10 := by
  have hc := (flagC p).toNat_le
  obtain ⟨-, ha⟩ := ha
  obtain ⟨-, hm⟩ := hm
  rw [lowDigitDifference, ← h]
  split
  all_goals omega

/-- Below zero one hundred is borrowed; the rest is spelled in two digits. -/
theorem decimalDifference_of_validBcd {d : Int} (h : d = (bcdValue a : Int) - bcdValue m + (flagC p).toNat - 1) :
    decimalDifference p a m = d / 100 * 256 + (d % 100 / 10 * 16 + d % 100 % 10) := by
  subst h
  have hc := (flagC p).toNat_le
  have hlow := lowDigitDifference_of_validBcd (p := p) ha hm rfl
  obtain ⟨haHigh, haLow⟩ := ha
  obtain ⟨hmHigh, hmLow⟩ := hm
  rw [decimalDifference, digitDifference, bcdValue, bcdValue]
  split
  all_goals omega

/-- Decimal ADC of valid numbers: the low two digits of the sum to A, the hundreds to C. -/
theorem adcAlu_of_validBcd (hd : flagD p = true) {sum : Nat} (h : sum = bcdValue a + bcdValue m + (flagC p).toNat) :
    (adcAlu p a m).1 = bcdByte (sum % 100) ∧ flagC (adcAlu p a m).2 = decide (100 ≤ sum) := by
  rw [adcAlu_of_decimal hd, adcDecimal_eq, decimalSum_of_validBcd ha hm h]
  refine ⟨congrArg (BitVec.ofNat 8) ?_, ?_⟩
  · omega
  · rw [withNZCV, flagC_statusByte, decide_eq_decide]
    omega

/-- Decimal SBC of valid numbers: C is that of the binary difference, which is below zero exactly where the decimal one is. -/
theorem sbcAlu_of_validBcd (hd : flagD p = true) {less : Nat} (h : less = bcdValue m + (1 - (flagC p).toNat)) :
    (sbcAlu p a m).1 = bcdByte ((bcdValue a + 100 - less) % 100) ∧ flagC (sbcAlu p a m).2 = decide (less ≤ bcdValue a) := by
  have hc := (flagC p).toNat_le
  rw [sbcAlu_of_decimal hd, sbcDecimalValue_eq, decimalDifference_of_validBcd ha hm rfl, sbcBinary_eq]
  refine ⟨congrArg (BitVec.ofNat 8) ?_, ?_⟩
  · have hva := bcdValue_lt_of_validBcd ha
    have hvm := bcdValue_lt_of_validBcd hm
    omega
  · obtain ⟨haHigh, haLow⟩ := ha
    obtain ⟨hmHigh, hmLow⟩ := hm
    rw [withNZCV, flagC_statusByte, binaryDifference, decide_eq_decide, h, bcdValue, bcdValue]
    omega

end

/-- Settles O23: the results are `bcdByte` of the sum and the difference modulo 100. -/
theorem decimalModeIsDecimal : Obligations.DecimalModeIsDecimal := by
  intro p a m ha hm hd sum less
  obtain ⟨hsum, hcarry⟩ := adcAlu_of_validBcd ha hm hd (sum := sum) rfl
  obtain ⟨hless, hborrow⟩ := sbcAlu_of_validBcd ha hm hd (less := less) rfl
  have hmod (n : Nat) : n % 100 < 100 := Nat.mod_lt n (by decide)
  rw [hsum, hless]
  exact ⟨validBcd_bcdByte (hmod _), bcdValue_bcdByte (hmod _), hcarry, validBcd_bcdByte (hmod _), bcdValue_bcdByte (hmod _), hborrow⟩

end Sys2Proof.Machine
end

section
/-! Increments, decrements, shifts and rotates (spec/45_incdec_shift.md R270 to R280): a read-modify-write in any mode is its ALU
operation at the address its mode and bytes spell (R113, R174); on a register it is the same ALU operation on that register. -/

namespace Sys2Proof.Machine

/-! ## Read-modify-writes -/

/-- The ALU operation of the mnemonics that modify memory (R271, R272, R277 to R280). -/
def modifyAlu : Mnemonic → Option (Byte → Byte → Byte × Byte)
  | .inc => some incAlu
  | .dec => some decAlu
  | .asl => some aslAlu
  | .lsr => some lsrAlu
  | .rol => some rolAlu
  | .ror => some rorAlu
  | _ => none

theorem exec_of_modifyAlu {i : Instr} {e : Ea} {alu : Byte → Byte → Byte × Byte} (halu : modifyAlu i.row.mnemonic = some alu)
    (he : targetOf i = some e) (s : State) : exec i s = modifyShape i e alu s := by
  cases i with
  | incZp | incZpX | incAbs | incAbsX | decZp | decZpX | decAbs | decAbsX | aslZp | aslZpX | aslAbs | aslAbsX
  | lsrZp | lsrZpX | lsrAbs | lsrAbsX | rolZp | rolZpX | rolAbs | rolAbsX | rorZp | rorZpX | rorAbs | rorAbsX =>
    simp only [targetOf, sourceOf, Instr.row, Instr.operand, word_of_hi_lo, Option.some.injEq] at he
    simp only [modifyAlu, Instr.row, Option.some.injEq] at halu
    subst he halu
    rfl
  | aslAcc | lsrAcc | rolAcc | rorAcc => cases he
  | _ => cases halu

/-- A read-modify-write of a plain byte, whatever its mode: the byte and P become what the ALU operation gives (R270). -/
theorem exec_modify_of_poke {i : Instr} {s t : State} {e : Ea} {ea : Word} {v r p : Byte} {alu : Byte → Byte → Byte × Byte}
    (halu : modifyAlu i.row.mnemonic = some alu) (hout : alu s.p v = (r, p)) (he : targetOf i = some e)
    (ha : s.address e = some ea) (hv : s.peek ea = some v) (hp : s.poke ea r = some t) :
    exec i s = .next { t.completed i i.row.cycles with p := p } := by
  rw [exec_of_modifyAlu halu he, modifyShape_of_poke ha hv (by rwa [hout]), hout]

/-- Settles O24: each of the six is its ALU operation on the byte at the effective address; the write is plain, and its frame is that of
the write. -/
theorem modifyMemoryResult : Obligations.ModifyMemoryResult := by
  intro i s t e ea v n carry hop he ha hv hp
  refine ⟨?_, poke_stores hp, poke_sameBytesBut hp, fun b hb => peek_of_poke_shares hp hb⟩
  obtain ⟨hm, rfl, rfl⟩ | ⟨hm, rfl, rfl⟩ | ⟨hm, rfl, rfl⟩ | ⟨hm, rfl, rfl⟩ | ⟨hm, rfl, rfl⟩ | ⟨hm, rfl, rfl⟩ := hop
  · exact exec_modify_of_poke (hm ▸ rfl) (incAlu_eq s.p v) he ha hv hp
  · exact exec_modify_of_poke (hm ▸ rfl) (decAlu_eq s.p v) he ha hv hp
  · exact exec_modify_of_poke (hm ▸ rfl) (aslAlu_eq s.p v) he ha hv hp
  · exact exec_modify_of_poke (hm ▸ rfl) (lsrAlu_eq s.p v) he ha hv hp
  · exact exec_modify_of_poke (hm ▸ rfl) (rolAlu_eq s.p v) he ha hv hp
  · exact exec_modify_of_poke (hm ▸ rfl) (rorAlu_eq s.p v) he ha hv hp

/-! ## Registers -/

/-- Settles O25: each of the eight is its ALU operation on its register; `incAlu_eq` and `decAlu_eq` give C as it was. -/
theorem modifyRegisterResult : Obligations.ModifyRegisterResult := by
  intro s
  refine ⟨?_, ?_, ?_, ?_, ?_, ?_, ?_, ?_⟩
  all_goals
    simp only [exec_inx, exec_iny, exec_dex, exec_dey, exec_aslAcc, exec_lsrAcc, exec_rolAcc, exec_rorAcc, registerShape_eq,
      modifyX, modifyY, modifyA, incAlu_eq, decAlu_eq, aslAlu_eq, lsrAlu_eq, rolAlu_eq, rorAlu_eq]
    rfl

end Sys2Proof.Machine
end

section
/-! Control transfer (spec/46_control_transfer.md R290 to R302): the pointer of JMP (ind), a word pushed by JSR and pulled by RTS on plain
page-1 bytes, and the branch target in ordinary numbers (R167, R171, R182, R183). -/

namespace Sys2Proof.Machine

/-! ## Jumps -/

theorem samePageNext_eq (w : Word) : samePageNext w = BitVec.ofNat 16 (w.toNat / 256 * 256 + (w.toNat % 256 + 1) % 256) := by
  rw [samePageNext, joinWord_eq, BitVec.toNat_add, hi8_toNat, lo8_toNat]
  rfl

theorem resolveIndirect_of_peekWord {s : State} {ptr w : Word} (h : s.peekWord ptr (samePageNext ptr) = some w) :
    resolveIndirect ptr s = .next (w, s) := by
  obtain ⟨lo, hi, hlo, hhi, rfl⟩ := peekWord_some h
  simp only [resolveIndirect, memRead_of_peek hlo, memRead_of_peek hhi, andThen_next]

/-- Settles O26: JMP abs by its meaning; the word behind a plain pointer is what the resolver reads. -/
theorem jumpResult : Obligations.JumpResult := by
  intro s w target
  refine ⟨rfl, fun h => ?_⟩
  rw [← samePageNext_eq] at h
  rw [exec_jmpInd, resolveIndirect_of_peekWord h]
  rfl

/-! ## Call and return -/

theorem byte_add_one_add_one (v : Byte) : v + 1#8 + 1#8 = BitVec.ofNat 8 (v.toNat + 2) := by revert v; decide
theorem byte_sub_one_sub_one (v : Byte) : v - 1#8 - 1#8 = BitVec.ofNat 8 (v.toNat + 254) := by revert v; decide

theorem word_add_one (w : Word) : w + 1#16 = BitVec.ofNat 16 (w.toNat + 1) := by
  rw [BitVec.ofNat_add, BitVec.ofNat_toNat, BitVec.setWidth_eq]

theorem pullWord_of_peekWord {s : State} {w : Word} (h : s.peekWord (stackAbove s.sp 1) (stackAbove s.sp 2) = some w) :
    pullWord s = .next (w, { s with sp := s.sp + 1#8 + 1#8 }) := by
  obtain ⟨lo, hi, hlo, hhi, rfl⟩ := peekWord_some h
  rw [← stackAddress_add_one] at hlo
  rw [← stackAddress_add_two] at hhi
  simp only [pullWord, pull_of_peek hlo, pull_of_peek (s := { s with sp := s.sp + 1#8 }) hhi, andThen_next]

/-- RTS on two plain bytes (R293). -/
theorem exec_rts_of_peekWord {s : State} {w : Word} (h : s.peekWord (stackAbove s.sp 1) (stackAbove s.sp 2) = some w) :
    exec .rts s = .next { s with
      sp := BitVec.ofNat 8 (s.sp.toNat + 2), pc := BitVec.ofNat 16 (w.toNat + 1), es := s.accounted .rts 6 } := by
  simp only [exec_rts, pullWord_of_peekWord h, andThen_next, byte_add_one_add_one, word_add_one]
  rfl

/-- Settles O27: two plain writes whose frame is theirs, then the jump; two plain reads, then the jump. -/
theorem callAndReturnResult : Obligations.CallAndReturnResult := by
  refine ⟨?_, fun s w h => exec_rts_of_peekWord h⟩
  intro s t w ret h
  refine ⟨?_, pokes_stores h, pokes_sameBytesBut h⟩
  have hret : (s.pc + 2#16).toNat = ret := BitVec.toNat_add ..
  have hes : t.es = s.es := by rw [pokes_stores h]
  rw [exec_jsr, pushWord_plain hret h, andThen_next, byte_sub_one_sub_one]
  simp only [retire, State.accounted, hes]
  rfl

/-! ## A call and its return -/

/-- A push onto a store byte is a plain write there (R65, R180). -/
theorem poke_of_push {s t : State} {v : Byte} {b : Word} (hs : s.Shares (stackBelow s.sp 0) b) (h : push v s = .next t) :
    ∃ k, s.poke (stackBelow s.sp 0) v = some k ∧ t = { k with sp := s.sp - 1#8 } := by
  obtain ⟨k, hk, ht⟩ := push_next h
  obtain ⟨st, i, hw, -⟩ := hs
  rw [stackAddress_eq, memWrite_array hw] at hk
  obtain ⟨ts, hts, rfl⟩ := writeStoreByte_next hk
  exact ⟨_, by rw [State.poke, hw]; simp only [hts, Option.map_some], ht⟩

theorem shares_of_poke {s t : State} {a : Word} {v : Byte} (h : s.poke a v = some t) (b c : Word) : t.Shares b c ↔ s.Shares b c := by
  rw [State.Shares, State.Shares, poke_writeBinding h, poke_readBinding h]

/-- A word pushed onto two distinct store bytes stands there, low byte below high byte (R182, R183). -/
theorem peekWord_of_pushWord {s t : State} {w : Word} (h : pushWord w s = .next t)
    (hhi : s.Shares (stackBelow s.sp 0) (stackBelow s.sp 0)) (hlo : s.Shares (stackBelow s.sp 1) (stackBelow s.sp 1))
    (hne : ¬ s.Shares (stackBelow s.sp 1) (stackBelow s.sp 0)) : t.peekWord (stackBelow s.sp 1) (stackBelow s.sp 0) = some w := by
  obtain ⟨u, hu, ht⟩ := andThen_eq_next.mp h
  obtain ⟨k, hk, rfl⟩ := poke_of_push hhi hu
  rw [← shares_of_poke hk] at hlo hne
  rw [← stackBelow_sub_one] at hlo hne ⊢
  obtain ⟨l, hl, rfl⟩ := poke_of_push (s := { k with sp := s.sp - 1#8 }) hlo ht
  have hlow : l.peek (stackBelow (s.sp - 1#8) 0) = some (lo8 w) := peek_of_poke_shares hl hlo
  have hkept : l.peek (stackBelow s.sp 0) = k.peek (stackBelow s.sp 0) :=
    (poke_sameBytesBut hl).peek (by rw [poke_stores hl]) fun a ha => List.mem_singleton.mp ha ▸ hne
  have hhigh : l.peek (stackBelow s.sp 0) = some (hi8 w) := hkept.trans (peek_of_poke_shares hk hhi)
  show l.peekWord _ _ = _
  rw [State.peekWord, hlow, hhigh, Option.bind_some, Option.map_some, word_of_hi_lo]

theorem stackAbove_one_of_sub_two (sp : Byte) : stackAbove (sp - 2#8) 1 = stackBelow sp 1 := by revert sp; decide
theorem stackAbove_two_of_sub_two (sp : Byte) : stackAbove (sp - 2#8) 2 = stackBelow sp 0 := by revert sp; decide

/-- Settles O29: the word that RTS pulls is the one that JSR pushed, the address of its own last byte. -/
theorem callThenReturn : Obligations.CallThenReturn := by
  intro s t u w hjsr hhi hlo hne hsp heqhi heqlo
  rw [exec_jsr] at hjsr
  obtain ⟨k, hk, ht⟩ := andThen_eq_next.mp hjsr
  injection ht with ht
  subst ht
  have husp : u.sp = s.sp - 2#8 := hsp.trans (pushWord_kept hk).sp
  have hpulled : u.peekWord (stackAbove u.sp 1) (stackAbove u.sp 2) = some (s.pc + 2#16) := by
    have hpushed : k.peekWord (stackBelow s.sp 1) (stackBelow s.sp 0) = some (s.pc + 2#16) := peekWord_of_pushWord hk hhi hlo hne
    rw [husp, stackAbove_one_of_sub_two, stackAbove_two_of_sub_two, State.peekWord, heqhi, heqlo]
    exact hpushed
  refine ⟨_, exec_rts_of_peekWord hpulled, ?_, ?_⟩
  · show BitVec.ofNat 16 ((s.pc + 2#16).toNat + 1) = s.pcPlus 3
    rw [← word_add_one, ← pc_add_eq, BitVec.add_assoc]
    rfl
  · show BitVec.ofNat 8 (u.sp.toNat + 2) = s.sp
    rw [← byte_add_two, husp, BitVec.sub_add_cancel]

/-! ## Branches -/

theorem branchNext_toNat (pc : Word) : (branchNext pc).toNat = (pc.toNat + 2) % 65536 := BitVec.toNat_add ..

theorem sext16_toNat (d : Byte) : (sext16 d).toNat = if d.toNat < 128 then d.toNat else d.toNat + 65280 := by revert d; decide

/-- The branch target in ordinary numbers (R167). -/
theorem branchTarget_toNat (pc : Word) (d : Byte) :
    (branchTarget pc d).toNat =
      ((((pc.toNat + 2) % 65536 : Nat) + (if d.toNat < 128 then (d.toNat : Int) else d.toNat - 256)) % 65536).toNat := by
  rw [branchTarget, BitVec.toNat_add, branchNext_toNat, sext16_toNat]
  have := d.isLt
  split <;> omega

theorem hi8_eq_iff (v w : Word) : hi8 v = hi8 w ↔ v.toNat / 256 = w.toNat / 256 := by rw [← BitVec.toNat_inj, hi8_toNat, hi8_toNat]

/-- Settles O28: each of the eight is the one branch on its condition; the cases are taken, within the page or out of it, and not
taken. -/
theorem branchResult : Obligations.BranchResult := by
  intro s d i cond hi next offset target
  have hshape : exec i s = branchShape i cond d s ∧ i.row.cycles = 2 := by
    obtain ⟨rfl, rfl⟩ | ⟨rfl, rfl⟩ | ⟨rfl, rfl⟩ | ⟨rfl, rfl⟩ | ⟨rfl, rfl⟩ | ⟨rfl, rfl⟩ | ⟨rfl, rfl⟩ |
      ⟨rfl, rfl⟩ := hi <;> exact ⟨rfl, rfl⟩
  obtain ⟨hexec, hcycles⟩ := hshape
  have hnext : (branchNext s.pc).toNat = next := branchNext_toNat s.pc
  have htarget : (branchTarget s.pc d).toNat = target := branchTarget_toNat s.pc d
  rw [hexec, branchShape_next, hcycles, ← hnext, ← htarget]
  simp only [hi8_eq_iff]
  cases cond with
  | false => simp only [Bool.false_eq_true, if_false, BitVec.ofNat_toNat, BitVec.setWidth_eq, Nat.add_zero]
  | true =>
    simp only [if_true, BitVec.ofNat_toNat, BitVec.setWidth_eq]
    split <;> rfl

end Sys2Proof.Machine
end

section
/-! Progress and safety of the step (spec/60_exceptions.md R343 to R349): what every memory access promises, every instruction, trap and step
made of accesses keeps; so a machine of plain memory always steps, and an admitted one without callbacks stops only by a named fault. -/

namespace Sys2Proof.Machine

/-! ## How an action may end -/

section
variable {α β : Type} {F : Fault → Prop} {Q : α → Prop} {r : Result α}

/-- `r` answers a value with `Q` or ends in a fault with `F`; it is not refused. -/
def Ends (F : Fault → Prop) (Q : α → Prop) : Result α → Prop
  | .next v => Q v
  | .fault e => F e
  | .refused _ => False

theorem Ends.andThen {P : β → Prop} {f : α → Result β} (hr : Ends F Q r) (hf : ∀ v, Q v → Ends F P (f v)) :
    Ends F P (andThen r f) := by
  cases r with
  | next v => exact hf v hr
  | fault e => exact hr
  | refused e => exact hr

theorem Ends.next {v : α} (h : Ends F Q r) (hv : r = .next v) : Q v := by
  subst hv
  exact h

theorem Ends.fault {e : Fault} (h : Ends F Q r) (he : r = .fault e) : F e := by
  subst he
  exact h

theorem Ends.not_refused (h : Ends F Q r) (e : Refusal) : r ≠ .refused e := by
  rintro rfl
  exact h

/-- What may end in no fault answers. -/
theorem Ends.exists_next (h : Ends (fun _ => False) Q r) : ∃ v, r = .next v := by
  cases r with
  | next v => exact ⟨v, rfl⟩
  | fault e => exact h.elim
  | refused e => exact h.elim

end

/-! ## What memory promises, every instruction keeps -/

/-- `I` speaks of memory alone; where it holds, an access answers and keeps it, or ends in a fault with `F`. -/
structure AccessesKeep (F : Fault → Prop) (I : State → Prop) : Prop where
  read : ∀ (a : Word) (s : State), I s → Ends F (fun r => I r.2) (memRead a s)
  write : ∀ (a : Word) (v : Byte) (s : State), I s → Ends F I (memWrite a v s)
  congr : ∀ {s t : State}, I s → t.cfg = s.cfg → t.stores = s.stores → t.params = s.params → I t

section
variable {F : Fault → Prop} {I : State → Prop} (h : AccessesKeep F I) {s : State} (hs : I s)
include h hs

theorem AccessesKeep.registers {t : State} (r : RegistersOnly s t) : I t := h.congr hs r.cfg r.stores r.params

/-- Two reads, low byte first: the body of `zeroPagePointer`, `resolveIndirect` and `memReadWord`. -/
theorem AccessesKeep.readPair_ends (a b : Word) : Ends F (fun r => I r.2)
    (andThen (memRead a s) fun l => andThen (memRead b l.2) fun k => .next (joinWord k.1 l.1, k.2)) :=
  (h.read a s hs).andThen fun l hl => (h.read b l.2 hl).andThen fun _ hk => hk

theorem AccessesKeep.resolve_ends (e : Ea) : Ends F (fun r => I r.2) (resolve e s) := by
  cases e with
  | indX d => exact (h.readPair_ends hs _ _).andThen fun _ hw => hw
  | indY d => exact (h.readPair_ends hs _ _).andThen fun _ hw => hw
  | zp | zpX | zpY | abs | absX | absY => exact hs

theorem AccessesKeep.operand_ends (src : Src) : Ends F (fun r => I r.2.2) (operand src s) := by
  cases src with
  | imm v => exact hs
  | mem e => exact (h.resolve_ends hs e).andThen fun r hr => (h.read r.1.ea r.2 hr).andThen fun _ hv => hv

theorem AccessesKeep.push_ends (v : Byte) : Ends F I (push v s) :=
  (h.write _ v s hs).andThen fun _ ht => h.congr ht rfl rfl rfl

theorem AccessesKeep.pull_ends : Ends F (fun r => I r.2) (pull s) :=
  h.read _ _ (h.congr hs rfl rfl rfl)

theorem AccessesKeep.pushWord_ends (w : Word) : Ends F I (pushWord w s) :=
  (h.push_ends hs _).andThen fun _ ht => h.push_ends ht _

theorem AccessesKeep.pullWord_ends : Ends F (fun r => I r.2) (pullWord s) :=
  (h.pull_ends hs).andThen fun _ hl => (h.pull_ends hl).andThen fun _ hk => hk

theorem AccessesKeep.takeTrap_ends (ret : Word) (copy : Byte) (vector : Word) : Ends F I (takeTrap ret copy vector s) := by
  refine (h.pushWord_ends hs ret).andThen fun t ht => (h.push_ends ht copy).andThen fun u hu => ?_
  have hread := h.readPair_ends (h.congr (t := { u with p := setI true u.p }) hu rfl rfl rfl) vector (vector + 1#16)
  exact hread.andThen fun _ hw => h.congr hw rfl rfl rfl

theorem AccessesKeep.returnFromTrap_ends : Ends F I (returnFromTrap s) := by
  refine (h.pull_ends hs).andThen fun (v, t) ht => ?_
  have hpull := h.pullWord_ends (h.congr (t := { t with p := pulledStatus v t.p }) ht rfl rfl rfl)
  exact hpull.andThen fun _ hu => h.congr hu rfl rfl rfl

theorem AccessesKeep.interruptEntry_ends (vector : Word) : Ends F I (interruptEntry vector s) :=
  (h.takeTrap_ends hs _ _ vector).andThen fun _ ht => h.congr ht rfl rfl rfl

theorem AccessesKeep.poll_ends : Ends F I (poll s) := by
  unfold poll
  split
  · exact (h.interruptEntry_ends hs _).andThen fun _ ht => h.congr ht rfl rfl rfl
  · split
    · exact (h.interruptEntry_ends hs _).andThen fun _ ht => h.congr ht rfl rfl rfl
    · exact hs

theorem AccessesKeep.finish_ends (i : Instr) (n : Nat) : Ends F I (finish i n s) := h.congr hs rfl rfl rfl

theorem AccessesKeep.exec_ends (i : Instr) : Ends F I (exec i s) := by
  cases exec_shape i with
  | read src f exec_eq registers _ =>
    rw [exec_eq]
    exact (h.operand_ends hs src).andThen fun r hr => h.finish_ends (h.registers hr (registers r.1 r.2.2)) i _
  | store e r exec_eq _ =>
    rw [exec_eq]
    exact (h.resolve_ends hs e).andThen fun a ha => (h.write a.1.ea _ a.2 ha).andThen fun _ ht => h.finish_ends ht i 0
  | modify e alu exec_eq _ =>
    rw [exec_eq]
    refine (h.resolve_ends hs e).andThen fun a ha => (h.read a.1.ea a.2 ha).andThen fun (v, t) ht => ?_
    have hwrite := h.write a.1.ea (alu t.p v).1 _ (h.congr (t := { t with p := setC (flagC (alu t.p v).2) t.p }) ht rfl rfl rfl)
    exact hwrite.andThen fun _ hk => h.congr hk rfl rfl rfl
  | register f exec_eq registers _ =>
    rw [exec_eq]
    exact h.finish_ends (h.registers hs (registers s)) i 0
  | branch cond d exec_eq _ =>
    rw [exec_eq, branchShape_next]
    exact h.congr hs rfl rfl rfl
  | push r exec_eq _ =>
    rw [exec_eq]
    exact (h.push_ends hs (r s)).andThen fun _ ht => h.finish_ends ht i 0
  | pull f exec_eq registers _ =>
    rw [exec_eq]
    exact (h.pull_ends hs).andThen fun r hr => h.finish_ends (h.registers hr (registers r.1 r.2)) i 0
  | jmpAbs w => exact h.congr hs rfl rfl rfl
  | jmpInd w => exact (h.readPair_ends hs _ _).andThen fun _ ht => h.congr ht rfl rfl rfl
  | jsr w => exact (h.pushWord_ends hs _).andThen fun _ ht => h.congr ht rfl rfl rfl
  | rts => exact (h.pullWord_ends hs).andThen fun _ ht => h.congr ht rfl rfl rfl
  | brk => exact (h.takeTrap_ends hs _ _ _).andThen fun _ ht => h.congr ht rfl rfl rfl
  | rti => exact (h.returnFromTrap_ends hs).andThen fun _ ht => h.congr ht rfl rfl rfl

theorem AccessesKeep.fetchBytes_ends (n : Nat) (a : Word) : Ends F (fun r => I r.2) (fetchBytes n a s) := by
  induction n generalizing a s with
  | zero => exact hs
  | succ n ih => exact (h.read a s hs).andThen fun _ hb => (ih hb _).andThen fun _ hbs => hbs

theorem AccessesKeep.fetch_ends : Ends F (fun r => I r.2) (fetch s) := by
  refine (h.read s.pc s hs).andThen fun b0 hb => ?_
  dsimp only
  split
  · exact hb
  · refine (h.fetchBytes_ends hb _ _).andThen fun bs hbs => ?_
    split <;> exact hbs

/-- With no observer installed, a step ends as memory's promise says, where an unknown opcode does (R150). -/
theorem AccessesKeep.step_ends (hobserver : ∀ t, I t → t.params.observer = none)
    (hunknown : ∀ b0 u, fetch s = .next (.unknown b0, u) → I u → Ends F I (unknownOpcode b0 u)) : Ends F I (step s) := by
  have hfetch := h.fetch_ends hs
  unfold step
  cases hf : fetch s with
  | fault e => exact hfetch.fault hf
  | refused e => exact absurd hf (hfetch.not_refused e)
  | next r =>
    obtain ⟨f, u⟩ := r
    have hu : I u := hfetch.next hf
    cases f with
    | unknown b0 => exact hunknown b0 u hf hu
    | known i =>
      refine (h.exec_ends hu i).andThen fun t ht => ?_
      rw [afterInstruction, observe_of_none (hobserver t ht)]
      exact h.poll_ends ht

end

/-! ## A machine of plain memory (R349) -/

/-- Plain memory, no observer and the tolerant policy. -/
structure PlainMachine (s : State) : Prop where
  plain : s.Plain
  observer : s.params.observer = none
  tolerant : s.params.unknownThrows = false

theorem peek_congr {s t : State} (hc : t.cfg = s.cfg) (hs : t.stores = s.stores) (hp : t.params = s.params) (a : Word) :
    t.peek a = s.peek a := by
  unfold State.peek readBinding activeOps
  rw [hc, hs, hp]

theorem plain_congr {s t : State} (h : s.Plain) (hc : t.cfg = s.cfg) (hs : t.stores = s.stores) (hp : t.params = s.params) :
    t.Plain := by
  have hpoke (a : Word) (v : Byte) : (t.poke a v).isSome = (s.poke a v).isSome := by
    unfold State.poke writeBinding activeOps
    rw [hc, hs, hp]
    split <;> simp
  exact fun a => ⟨peek_congr hc hs hp a ▸ (h a).1, fun v => (hpoke a v).trans ((h a).2 v)⟩

/-- Every access of a machine of plain memory answers (R65, R66). -/
theorem plainMachine_accessesKeep : AccessesKeep (fun _ => False) PlainMachine where
  read a s hs := by
    obtain ⟨v, hv⟩ := Option.isSome_iff_exists.mp (hs.plain a).1
    rw [memRead_of_peek hv]
    exact hs
  write a v s hs := by
    obtain ⟨t, ht⟩ := Option.isSome_iff_exists.mp ((hs.plain a).2 v)
    rw [memWrite_of_poke ht]
    have hparams : t.params = s.params := by rw [poke_stores ht]
    exact ⟨poke_plain ht hs.plain, by rw [hparams, hs.observer], by rw [hparams, hs.tolerant]⟩
  congr hs hcfg hstores hparams :=
    ⟨plain_congr hs.plain hcfg hstores hparams, by rw [hparams, hs.observer], by rw [hparams, hs.tolerant]⟩

/-- Settles O55: a plain access answers and leaves memory plain, and the tolerant policy answers an unknown opcode. -/
theorem plainMachineAlwaysSteps : Obligations.PlainMachineAlwaysSteps := by
  intro s hplain hobserver htolerant
  have k := plainMachine_accessesKeep
  have hstep : Ends (fun _ => False) PlainMachine (step s) := by
    refine k.step_ends ⟨hplain, hobserver, htolerant⟩ (fun t ht => ht.observer) fun b0 u _ hu => ?_
    rw [unknownOpcode, hu.tolerant]
    exact k.congr hu rfl rfl rfl
  obtain ⟨t, ht⟩ := hstep.exists_next
  have hkept := hstep.next ht
  exact ⟨t, ht, hkept.plain, hkept.observer, hkept.tolerant⟩

/-! ## A machine without callbacks whose parameters are admitted (R348) -/

/-- The bytes of an admitted range exist (R64). -/
theorem storeByte?_of_rangeAdmitted {s : State} {start st offset length a : Nat}
    (h : rangeAdmitted s.sizes start st offset length = true) (ha : start ≤ a ∧ a < start + length) :
    (storeByte? s.stores st (offset + (a - start))).isSome = true := by
  unfold rangeAdmitted at h
  split at h
  · cases h
  · next size hsize =>
    rw [State.sizes, List.getElem?_map] at hsize
    obtain ⟨t, ht, rfl⟩ := Option.map_eq_some_iff.mp hsize
    obtain ⟨-, hlength⟩ : start + length ≤ Config.addressSpace ∧ offset + length ≤ t.size := by simpa using h
    rw [storeByte?_of ht (by omega)]
    rfl

theorem storeByte?_of_readAt {s : State} {op : BindOp} {a st i : Nat} (h : op.admitted s.sizes = true)
    (hr : BindOp.readAt a op = some (.array st i)) : (storeByte? s.stores st i).isSome = true := by
  cases op with
  | mapRam start store offset length | mapRom start store offset length =>
    simp only [BindOp.readAt, Option.ite_none_right_eq_some, Option.some.injEq, ReadBinding.array.injEq] at hr
    obtain ⟨ha, rfl, rfl⟩ := hr
    exact storeByte?_of_rangeAdmitted h ha
  | mapReader | mapWriter => simp [BindOp.readAt] at hr

theorem storeByte?_of_writeAt {s : State} {op : BindOp} {a st i : Nat} (h : op.admitted s.sizes = true)
    (hw : BindOp.writeAt a op = some (.array st i)) : (storeByte? s.stores st i).isSome = true := by
  cases op with
  | mapRam start store offset length =>
    simp only [BindOp.writeAt, Option.ite_none_right_eq_some, Option.some.injEq, WriteBinding.array.injEq] at hw
    obtain ⟨ha, rfl, rfl⟩ := hw
    exact storeByte?_of_rangeAdmitted h ha
  | mapRom | mapReader | mapWriter => simp [BindOp.writeAt] at hw

theorem admitted_of_activeOps {s : State} (h : s.Inv) {op : BindOp} (ho : op ∈ activeOps s) : op.admitted s.sizes = true := by
  obtain ⟨hparams, hcfg, -⟩ := h
  obtain ⟨-, hops⟩ : 1 ≤ s.params.count ∧ ∀ ops ∈ s.params.configs, ∀ op ∈ ops, op.admitted s.sizes = true := by
    simpa [Params.wellFormed] using hparams
  rw [activeOps, List.getD_eq_getElem _ _ hcfg] at ho
  exact hops _ (List.getElem_mem hcfg) op ho

/-- An admitted machine reads bytes that exist (R64). -/
theorem storeByte?_of_readBinding {s : State} (h : s.Inv) {a : Word} {st i : Nat} (hb : readBinding s a = .array st i) :
    (storeByte? s.stores st i).isSome = true := by
  obtain e | ⟨op, ho, e⟩ := foldl_binding (BindOp.readAt a.toNat) (activeOps s) .unbound
  · cases e.symm.trans hb
  · exact storeByte?_of_readAt (admitted_of_activeOps h ho) (e.trans (congrArg some hb))

/-- An admitted machine writes bytes that exist (R64). -/
theorem storeByte?_of_writeBinding {s : State} (h : s.Inv) {a : Word} {st i : Nat} (hb : writeBinding s a = .array st i) :
    (storeByte? s.stores st i).isSome = true := by
  obtain e | ⟨op, ho, e⟩ := foldl_binding (BindOp.writeAt a.toNat) (activeOps s) .unbound
  · cases e.symm.trans hb
  · exact storeByte?_of_writeAt (admitted_of_activeOps h ho) (e.trans (congrArg some hb))

/-- The parameters admitted, no callbacks, and `c` the active configuration. -/
structure AdmittedMachine (c : Nat) (s : State) : Prop where
  inv : s.Inv
  noCallbacks : s.NoCallbacks
  cfg : s.cfg = c

/-- The faults that a step from `s` may end in (R343, R346). -/
def NamedFault (s : State) (e : Fault) : Prop :=
  (∃ a k left, e = .unboundAccess a s.cfg k left) ∨
  (∃ b left, e = .unknownOpcode b s.pc left ∧ opcodeLength b = none ∧ s.params.unknownThrows = true)

/-- An access of an admitted machine without callbacks faults only where nothing is bound (R346). -/
theorem admittedMachine_accessesKeep (s : State) : AccessesKeep (NamedFault s) (AdmittedMachine s.cfg) where
  read a t ht := by
    unfold memRead
    split
    · exact .inl ⟨a, .read, t, by rw [ht.cfg]⟩
    · next st i hb =>
      obtain ⟨v, hv⟩ := Option.isSome_iff_exists.mp (storeByte?_of_readBinding ht.inv hb)
      rw [hv]
      exact ht
    · next f hb => exact absurd hb (readBinding_ne_reader ht.noCallbacks a f)
  write a v t ht := by
    unfold memWrite
    split
    · exact .inl ⟨a, .write, t, by rw [ht.cfg]⟩
    · next st i hb =>
      have hbyte := storeByte?_of_writeBinding ht.inv hb
      rw [← storeWrite?_isSome t.stores st i v] at hbyte
      obtain ⟨ts, hts⟩ := Option.isSome_iff_exists.mp hbyte
      have hwrite : writeStoreByte ⟨st, i, v⟩ t = .next { t with stores := ts } := by simp only [writeStoreByte, hts]
      rw [hwrite]
      exact ⟨(writeStoreByte_kept hwrite).inv ht.inv, ht.noCallbacks, ht.cfg⟩
    · exact ht
    · next g hb => exact absurd hb (writeBinding_ne_writer ht.noCallbacks a g)
  congr ht hcfg hstores hparams := by
    refine ⟨?_, noCallbacks_of_params ht.noCallbacks hparams, hcfg.trans ht.cfg⟩
    unfold State.Inv State.sizes State.memoryWf
    rw [hcfg, hstores, hparams]
    exact ht.inv

/-! ## Unknown opcodes (R114, R343) -/

theorem length_of_fetchBytes {n : Nat} {a : Word} {bs : List Byte} {s t : State} (h : fetchBytes n a s = .next (bs, t)) :
    bs.length = n := by
  induction n generalizing a bs s with
  | zero => cases h; rfl
  | succ n ih =>
    obtain ⟨⟨b, u⟩, -, h⟩ := andThen_eq_next.mp h
    obtain ⟨⟨rest, v⟩, hrest, h⟩ := andThen_eq_next.mp h
    cases h
    rw [List.length_cons, ih hrest]

/-- As many operand bytes as a form's length leaves room for complete an instruction (R112, R114). -/
theorem exists_fill_of_length {f : Form} {ops : List Byte} (h : ops.length = f.length - 1) : ∃ i, f.fill ops = some i := by
  cases f with
  | f1 i =>
    obtain rfl := List.length_eq_zero_iff.mp h
    exact ⟨i, rfl⟩
  | f2 k =>
    obtain ⟨b, rfl⟩ := List.length_eq_one_iff.mp h
    exact ⟨k b, rfl⟩
  | f3 k =>
    obtain ⟨lo, hi, rfl⟩ := List.length_eq_two.mp h
    exact ⟨k (joinWord hi lo), rfl⟩

/-- A byte that a fetch brings as unknown is one outside the Opcode Table (R152, R343). -/
theorem opcodeLength_of_fetch_unknown {s u : State} {b0 : Byte} (h : fetch s = .next (.unknown b0, u)) : opcodeLength b0 = none := by
  obtain ⟨⟨b, v⟩, -, h⟩ := andThen_eq_next.mp h
  dsimp only at h
  split at h
  · next hl => cases h; exact hl
  · next n hl =>
    obtain ⟨⟨ops, w⟩, hops, h⟩ := andThen_eq_next.mp h
    dsimp only at h
    split at h
    · cases h
    · next hd =>
      obtain ⟨f, hf, rfl⟩ := Option.map_eq_some_iff.mp hl
      obtain ⟨i, hi⟩ := exists_fill_of_length (length_of_fetchBytes hops)
      exact absurd (by simpa using decode_of_fill hf hi []) (hd i [])

/-- Settles O56: no access of an admitted machine without callbacks is refused, and what is unknown is outside the table. -/
theorem admittedMachineStopsOnlyAsNamed : Obligations.AdmittedMachineStopsOnlyAsNamed := by
  intro s hinv hno
  have k := admittedMachine_accessesKeep s
  have hstep : Ends (NamedFault s) (AdmittedMachine s.cfg) (step s) := by
    refine k.step_ends ⟨hinv, hno, rfl⟩ (fun t ht => ht.noCallbacks.1) fun b0 u hf hu => ?_
    have hkept := fetch_kept hf
    unfold unknownOpcode
    split
    · next hthrows =>
      exact .inr ⟨b0, _, by rw [hkept.pc], opcodeLength_of_fetch_unknown hf, hkept.params ▸ hthrows⟩
    · exact k.congr hu rfl rfl rfl
  exact ⟨hstep.not_refused, fun e => hstep.fault, fun t ht => ⟨(hstep.next ht).inv, (hstep.next ht).noCallbacks⟩⟩

end Sys2Proof.Machine
end

section
/-! Flag instructions, traps and the interrupt poll (spec/47_flags_system.md R311 to R320, 60_exceptions.md R332 to R338): BRK and the two
interrupt entries are one trap on plain bytes, and RTI undoes it (R350). -/

namespace Sys2Proof.Machine

/-! ## Flag instructions -/

/-- An instruction that sets P and nothing else but PC and the counters. -/
theorem exec_of_status {i : Instr} {f : Byte → Byte} {s : State} {p : Byte} (hx : exec i s = registerShape i (status f) s)
    (hp : f s.p = p) : exec i s = .next { s.completed i i.row.cycles with p := p } := by
  rw [hx, registerShape_eq, ← hp]
  rfl

/-- Settles O30: each of the four is one flag operation on P. -/
theorem flagInstructionResult : Obligations.FlagInstructionResult := by
  refine ⟨by decide, by decide, by decide, by decide, fun s => ⟨?_, ?_, ?_, ?_⟩⟩
  · exact exec_of_status (exec_clc s) (setC_eq false s.p)
  · exact exec_of_status (exec_sec s) (setC_eq true s.p)
  · exact exec_of_status (exec_cld s) (setD_eq false s.p)
  · exact exec_of_status (exec_clv s) (setV_eq false s.p)

/-- Settles O31: three flag operations on P, and the bookkeeping alone. -/
theorem maskAndModeResult : Obligations.MaskAndModeResult := by
  refine fun s => ⟨?_, ?_, ?_, ?_⟩
  · exact exec_of_status (exec_cli s) (setI_eq false s.p)
  · exact exec_of_status (exec_sei s) (setI_eq true s.p)
  · exact exec_of_status (exec_sed s) (setD_eq true s.p)
  · exact registerShape_eq .nop (fun t => t) s

/-! ## A trap and its return on plain bytes -/

theorem byte_sub_one_thrice (v : Byte) : v - 1#8 - 1#8 - 1#8 = BitVec.ofNat 8 (v.toNat + 253) := by revert v; decide
theorem byte_add_one_thrice (v : Byte) : v + 1#8 + 1#8 + 1#8 = BitVec.ofNat 8 (v.toNat + 3) := by revert v; decide
theorem stackAbove_one_of_add_one (sp : Byte) : stackAbove (sp + 1#8) 1 = stackAbove sp 2 := by revert sp; decide
theorem stackAbove_two_of_add_one (sp : Byte) : stackAbove (sp + 1#8) 2 = stackAbove sp 3 := by revert sp; decide

/-- A trap on plain bytes in ordinary numbers (R336). -/
theorem takeTrap_of_pokes {s t : State} {ret : Word} {n : Nat} {copy : Byte} {vector w : Word} (hn : ret.toNat = n)
    (h : s.pokes (trapPushes s.sp n copy) = some t) (hv : t.peekWord vector (vector + 1#16) = some w) :
    takeTrap ret copy vector s = .next { t with
      sp := BitVec.ofNat 8 (s.sp.toNat + 253)
      p := statusByte (flagN s.p) (flagV s.p) (flagU s.p) (flagB s.p) (flagD s.p) true (flagZ s.p) (flagC s.p)
      pc := w } := by
  rw [takeTrap_plain hn h hv, byte_sub_one_thrice, setI_eq]

/-- Settles O32: BRK is a trap with the address two past it and the copy with bits 4 and 5 set. -/
theorem brkResult : Obligations.BrkResult := by
  intro s t w copy h hv
  refine ⟨?_, pokes_stores h, pokes_sameBytesBut h⟩
  have hret : (s.pc + 2#16).toNat = (s.pc.toNat + 2) % 65536 := BitVec.toNat_add ..
  have hes : t.es = s.es := by rw [pokes_stores h]
  have hcopy : brokenCopy s.p = copy := brokenCopy_eq s.p
  rw [exec_brk, hcopy, takeTrap_of_pokes (vector := Config.irqVector) hret h hv, andThen_next]
  simp only [retire, State.accounted, hes]
  rfl

/-- RTI's three pulls on plain bytes (R320). -/
theorem exec_rti_of_peeks {s : State} {v : Byte} {w : Word} (hv : s.peek (stackAbove s.sp 1) = some v)
    (hw : s.peekWord (stackAbove s.sp 2) (stackAbove s.sp 3) = some w) :
    exec .rti s = .next { s with
      sp := BitVec.ofNat 8 (s.sp.toNat + 3), p := pulledStatus v s.p, pc := w, es := s.accounted .rti 6 } := by
  rw [← stackAddress_add_one] at hv
  rw [← stackAbove_one_of_add_one, ← stackAbove_two_of_add_one] at hw
  have hword := pullWord_of_peekWord (s := { s with sp := s.sp + 1#8, p := pulledStatus v s.p }) hw
  simp only [exec_rti, returnFromTrap, pull_of_peek hv, andThen_next, hword, byte_add_one_thrice]
  rfl

/-- Settles O33: three plain reads; `pulledStatus` keeps bits 4 and 5. -/
theorem rtiResult : Obligations.RtiResult := by
  intro s v w hv hw
  rw [exec_rti_of_peeks hv hw, pulledStatus_eq]

/-! ## The interrupt poll -/

theorem poll_of_nmi {s : State} (h : s.nmi = true) :
    poll s = andThen (interruptEntry Config.nmiVector s) fun t => .next { t with nmi := false } := by
  simp only [poll, h, if_true]

theorem poll_of_irq {s : State} (hn : s.nmi = false) (hi : s.irq = true) (hp : flagI s.p = false) :
    poll s = andThen (interruptEntry Config.irqVector s) fun t => .next { t with irq := false } := by
  simp [poll, hn, hi, hp]

/-- Settles O47: the poll of a machine with no request to take. -/
theorem maskedRequestStaysPending : Obligations.MaskedRequestStaysPending := fun _ hn hi => poll_of_quiet hn hi

/-- A hardware interrupt's entry on plain bytes (R336, R338). -/
theorem interruptEntry_of_pokes {s t : State} {vector w : Word}
    (h : s.pokes (trapPushes s.sp s.pc.toNat
      (statusByte (flagN s.p) (flagV s.p) true false (flagD s.p) (flagI s.p) (flagZ s.p) (flagC s.p))) = some t)
    (hv : t.peekWord vector (vector + 1#16) = some w) :
    interruptEntry vector s = .next { t with
      sp := BitVec.ofNat 8 (s.sp.toNat + 253)
      p := statusByte (flagN s.p) (flagV s.p) (flagU s.p) (flagB s.p) (flagD s.p) true (flagZ s.p) (flagC s.p)
      pc := w
      es := { s.es with cycles := s.es.cycles + s.params.interruptCycles } } := by
  have hes : t.es = s.es := by rw [pokes_stores h]
  have hparams : t.params = s.params := by rw [pokes_stores h]
  rw [interruptEntry, interruptCopy_eq, takeTrap_of_pokes rfl h hv, andThen_next, hes, hparams]

/-- Settles O45: the poll makes one entry, then clears the latch it took. -/
theorem interruptEntryResult : Obligations.InterruptEntry := by
  intro s t w vector irq nmi hrequest h hv
  refine ⟨?_, pokes_stores h, pokes_sameBytesBut h⟩
  have hentry := interruptEntry_of_pokes h hv
  have hirq : t.irq = s.irq := by rw [pokes_stores h]
  have hnmi : t.nmi = s.nmi := by rw [pokes_stores h]
  obtain ⟨hn, rfl, rfl, rfl⟩ | ⟨hn, hi, hp, rfl, rfl, rfl⟩ := hrequest
  · rw [poll_of_nmi hn, Config.nmiVector, hentry, andThen_next, hirq]
  · rw [poll_of_irq hn hi hp, Config.irqVector, hentry, andThen_next, hnmi, hn]

/-! ## No access withdraws an IRQ (R68, R334) -/

section
variable {s t : State}

theorem writeStoreBytes_irq {ws : List StoreWrite} (h : writeStoreBytes ws s = .next t) : t.irq = s.irq := by
  induction ws generalizing s with
  | nil => cases h; rfl
  | cons w ws ih =>
    obtain ⟨u, hu, h⟩ := andThen_eq_next.mp h
    obtain ⟨ts, -, rfl⟩ := writeStoreByte_next hu
    exact (ih h :)

theorem switchIfAsked_irq {i : Option Int} (h : switchIfAsked i s = .next t) : t.irq = s.irq := by
  cases i with
  | none => cases h; rfl
  | some i =>
    obtain ⟨-, -, rfl⟩ := setMemoryConfiguration_next h
    rfl

/-- A callback's effects raise requests and withdraw none (R68). -/
theorem applyEffects_irq {e : Effects} (h : applyEffects e s = .next t) (hi : s.irq = true) : t.irq = true := by
  obtain ⟨u, hu, h⟩ := andThen_eq_next.mp h
  obtain ⟨v, hv, h⟩ := andThen_eq_next.mp h
  cases h
  simp [switchIfAsked_irq hv, writeStoreBytes_irq hu, hi]

theorem memRead_irq {a : Word} {v : Byte} (h : memRead a s = .next (v, t)) (hi : s.irq = true) : t.irq = true := by
  unfold memRead at h
  split at h
  · cases h
  · split at h
    · cases h; exact hi
    · cases h
  · obtain ⟨u, hu, h⟩ := andThen_eq_next.mp h
    cases h
    exact applyEffects_irq hu hi

theorem memWrite_irq {a : Word} {v : Byte} (h : memWrite a v s = .next t) (hi : s.irq = true) : t.irq = true := by
  unfold memWrite at h
  split at h
  · cases h
  · obtain ⟨ts, -, rfl⟩ := writeStoreByte_next h
    exact hi
  · cases h; exact hi
  · exact applyEffects_irq h hi

theorem memReadWord_irq {a w : Word} (h : memReadWord a s = .next (w, t)) (hi : s.irq = true) : t.irq = true := by
  obtain ⟨⟨l, u⟩, hu, h⟩ := andThen_eq_next.mp h
  obtain ⟨⟨k, v⟩, hv, h⟩ := andThen_eq_next.mp h
  cases h
  exact memRead_irq hv (memRead_irq hu hi)

theorem push_irq {v : Byte} (h : push v s = .next t) (hi : s.irq = true) : t.irq = true := by
  obtain ⟨u, hu, rfl⟩ := push_next h
  exact (memWrite_irq hu hi :)

theorem pushWord_irq {w : Word} (h : pushWord w s = .next t) (hi : s.irq = true) : t.irq = true := by
  obtain ⟨u, hu, h⟩ := andThen_eq_next.mp h
  exact push_irq h (push_irq hu hi)

theorem takeTrap_irq {ret vector : Word} {copy : Byte} (h : takeTrap ret copy vector s = .next t) (hi : s.irq = true) :
    t.irq = true := by
  obtain ⟨u, hu, h⟩ := andThen_eq_next.mp h
  obtain ⟨k, hk, h⟩ := andThen_eq_next.mp h
  obtain ⟨⟨w, l⟩, hl, h⟩ := andThen_eq_next.mp h
  cases h
  have hpushed := push_irq hk (pushWord_irq hu hi)
  exact (memReadWord_irq hl hpushed :)

theorem interruptEntry_irq {vector : Word} (h : interruptEntry vector s = .next t) (hi : s.irq = true) : t.irq = true := by
  obtain ⟨u, hu, h⟩ := andThen_eq_next.mp h
  cases h
  exact (takeTrap_irq hu hi :)

end

/-- Settles O46: the poll asks for NMI first; its entry sets `P.I` and withdraws no IRQ. -/
theorem nmiBeforeIrq : Obligations.NmiBeforeIrq := by
  intro s t hn hi h
  rw [poll_of_nmi hn] at h
  obtain ⟨u, hu, h⟩ := andThen_eq_next.mp h
  cases h
  have hmasked : flagI u.p = true := by rw [(interruptEntry_kept hu).p, setI_eq, flagI_statusByte]
  have hirq := interruptEntry_irq hu hi
  refine ⟨⟨u, hu, rfl⟩, rfl, hirq, hmasked, fun r hrn hri => ⟨fun hp => ?_, fun hp => ?_⟩⟩
  · exact poll_of_quiet hrn (.inr hp)
  · exact poll_of_irq hrn hri hp

/-! ## RTI after a trap (R350) -/

theorem stackAbove_one_of_sub_three (sp : Byte) : stackAbove (sp - 3#8) 1 = stackBelow sp 2 := by revert sp; decide
theorem stackAbove_two_of_sub_three (sp : Byte) : stackAbove (sp - 3#8) 2 = stackBelow sp 1 := by revert sp; decide
theorem stackAbove_three_of_sub_three (sp : Byte) : stackAbove (sp - 3#8) 3 = stackBelow sp 0 := by revert sp; decide

theorem shares_congr {s t : State} (hc : t.cfg = s.cfg) (hp : t.params = s.params) (a b : Word) : t.Shares a b ↔ s.Shares a b := by
  unfold State.Shares writeBinding readBinding activeOps
  rw [hc, hp]

/-- The page-1 bytes of a trap's pushes are three distinct store bytes, readable where they are written. -/
structure FrameIsMemory (s : State) : Prop where
  readable : ∀ j < 3, s.Shares (stackBelow s.sp j) (stackBelow s.sp j)
  distinct : ∀ j < 3, ∀ k < 3, j ≠ k → ¬ s.Shares (stackBelow s.sp j) (stackBelow s.sp k)

/-- A push onto a store byte is read there, and changes no address that does not share it (R85, R180). -/
theorem peek_of_push {s t : State} {v : Byte} (hs : s.Shares (stackBelow s.sp 0) (stackBelow s.sp 0)) (h : push v s = .next t) :
    t.peek (stackBelow s.sp 0) = some v ∧ ∀ b, ¬ s.Shares (stackBelow s.sp 0) b → t.peek b = s.peek b := by
  obtain ⟨k, hk, rfl⟩ := poke_of_push hs h
  have hcfg : k.cfg = s.cfg := by rw [poke_stores hk]
  exact ⟨(peek_of_poke_shares hk hs :), fun b hb => (poke_sameBytesBut hk).peek hcfg fun a ha => List.mem_singleton.mp ha ▸ hb⟩

/-- What a trap has pushed stands in its frame: the status copy below the return address. -/
theorem frame_of_takeTrap {s t : State} {ret vector : Word} {copy : Byte} (hn : s.NoCallbacks) (hf : FrameIsMemory s)
    (h : takeTrap ret copy vector s = .next t) :
    t.peek (stackBelow s.sp 2) = some copy ∧ t.peekWord (stackBelow s.sp 1) (stackBelow s.sp 0) = some ret := by
  obtain ⟨u, hu, h⟩ := andThen_eq_next.mp h
  obtain ⟨k, hk, h⟩ := andThen_eq_next.mp h
  obtain ⟨⟨w, l⟩, hl, h⟩ := andThen_eq_next.mp h
  have hret : u.peekWord (stackBelow s.sp 1) (stackBelow s.sp 0) = some ret :=
    peekWord_of_pushWord hu (hf.readable 0 (by decide)) (hf.readable 1 (by decide))
      (hf.distinct 1 (by decide) 0 (by decide) (by decide))
  have hword := pushWord_writes hn hu
  have hsp : stackBelow u.sp 0 = stackBelow s.sp 2 := by rw [(pushWord_kept hu).sp, stackBelow_sub_two]
  have hshares (b : Word) : u.Shares (stackBelow u.sp 0) b ↔ s.Shares (stackBelow s.sp 2) b :=
    hsp ▸ shares_congr hword.cfg hword.params _ _
  obtain ⟨hcopy, hkept⟩ := peek_of_push ((hshares _).mpr (hsp ▸ hf.readable 2 (by decide))) hk
  have hnu := noCallbacks_of_params hn hword.params
  have hnk := noCallbacks_of_params hnu (push_writes hnu hk).params
  obtain rfl := memReadWord_noCallbacks (s := { k with p := setI true k.p }) hnk hl
  injection h with h
  subst h
  rw [hsp] at hcopy
  rw [State.peekWord, ← hkept _ (mt (hshares _).mp (hf.distinct 2 (by decide) 0 (by decide) (by decide))),
    ← hkept _ (mt (hshares _).mp (hf.distinct 2 (by decide) 1 (by decide) (by decide)))] at hret
  exact ⟨hcopy, hret⟩

/-- Loading the copy of a status whose bits 4 and 5 are live gives that status back. -/
theorem pulledStatus_of_liveBits {p q : Byte} (hb : flagB q = flagB p) (hu : flagU q = flagU p) : pulledStatus p q = p := by
  rw [pulledStatus_eq, hb, hu, statusByte_flags]

/-- RTI undoes a trap whose copy has the six loaded flags of P, from every state that has the trap's SP, live bits and frame. -/
theorem exec_rti_of_takeTrap {s t u : State} {ret vector : Word} {copy : Byte} (hn : s.NoCallbacks) (hf : FrameIsMemory s)
    (hcopy : ∀ q, pulledStatus copy q = pulledStatus s.p q) (h : takeTrap ret copy vector s = .next t)
    (hu : u.sp = t.sp ∧ flagB u.p = flagB t.p ∧ flagU u.p = flagU t.p ∧
      ∀ j < 3, u.peek (stackBelow s.sp j) = t.peek (stackBelow s.sp j)) :
    ∃ v, exec .rti u = .next v ∧ v.pc = ret ∧ v.sp = s.sp ∧ v.p = s.p := by
  obtain ⟨husp, hub, huu, hupeek⟩ := hu
  have k := takeTrap_kept h
  have hsp : u.sp = s.sp - 3#8 := husp.trans k.sp
  obtain ⟨hstatus, hret⟩ := frame_of_takeTrap hn hf h
  rw [← hupeek 2 (by decide), ← stackAbove_one_of_sub_three, ← hsp] at hstatus
  rw [State.peekWord, ← hupeek 0 (by decide), ← hupeek 1 (by decide), ← State.peekWord, ← stackAbove_two_of_sub_three,
    ← stackAbove_three_of_sub_three, ← hsp] at hret
  have hlive : flagB u.p = flagB s.p ∧ flagU u.p = flagU s.p := by
    rw [hub, huu, k.p]
    simp [setI_eq]
  refine ⟨_, exec_rti_of_peeks hstatus hret, rfl, ?_, ?_⟩
  · show BitVec.ofNat 8 (u.sp.toNat + 3) = s.sp
    rw [← byte_add_three, hsp, BitVec.sub_add_cancel]
  · exact (hcopy u.p).trans (pulledStatus_of_liveBits hlive.1 hlive.2)

/-- Settles O48: an interrupt's entry and BRK are traps; neither copy differs from P in a flag that RTI loads. -/
theorem rtiUndoesTrapEntry : Obligations.RtiUndoesTrapEntry := by
  intro s t u hn hreadable hdistinct hu
  have hf : FrameIsMemory s := ⟨hreadable, hdistinct⟩
  constructor
  · intro vector h
    obtain ⟨k, hk, h⟩ := andThen_eq_next.mp h
    injection h with h
    subst h
    exact exec_rti_of_takeTrap hn hf (fun q => by simp [pulledStatus_eq, interruptCopy_eq]) hk hu
  · intro h
    obtain ⟨k, hk, h⟩ := andThen_eq_next.mp h
    injection h with h
    subst h
    rw [← pc_add_eq]
    exact exec_rti_of_takeTrap hn hf (fun q => by simp [pulledStatus_eq, brokenCopy_eq]) hk hu

end Sys2Proof.Machine
end

section
/-! The ends of a step and of a run: unknown opcodes (spec/60_exceptions.md R343, R344), unbound accesses (R346), and the run loop under
evaluators (R360 to R363). -/

namespace Sys2Proof.Machine

/-! ## Unknown opcodes -/

theorem step_of_unknown {s u : State} {b0 : Byte} (h : memRead s.pc s = .next (b0, u)) (hb : opcodeLength b0 = none) :
    step s = unknownOpcode b0 u := by
  simp only [step, fetch, h, hb, andThen_next]

/-- Settles O7: the read keeps PC, the counters and the policy. -/
theorem strictUnknownOpcodeFaults : Obligations.StrictUnknownOpcodeFaults := by
  intro s u b0 h hb hthrows
  have k := memRead_kept h
  rw [step_of_unknown h hb, unknownOpcode, k.params, if_pos hthrows, k.es, ← k.pc]

/-- A run whose next step meets a tolerant unknown opcode stops there, whatever the evaluators (R344). -/
theorem execute_of_unhandled {s t : State} (h : step s = .next t) (ht : t.es.lastHandled = false) (es : List Evaluator) (fuel : Nat) :
    execute es (fuel + 1) s = .unknownOpcode t := by
  simp [execute, executeLoop, h, ht]

/-- Settles O8: the read keeps registers, counters and policy; the event touches PC and the counters alone. -/
theorem tolerantUnknownOpcodeIsSkipped : Obligations.TolerantUnknownOpcodeIsSkipped := by
  intro s u b0 h hb htolerant
  have k := memRead_kept h
  have hthrows : u.params.unknownThrows = false := by rw [k.params, htolerant]
  have hpc : u.pc + 1#16 = s.pcPlus 1 := by rw [k.pc]; exact pc_add_eq 1 s
  have hstep : step s = .next { u with
      pc := s.pcPlus 1
      es :=
        { s.es with
          unknownCount := s.es.unknownCount + 1
          lastOpcode := b0
          lastHandled := false
          cycles := s.es.cycles + s.params.unknownOpcodeCycles } } := by
    rw [step_of_unknown h hb, unknownOpcode, if_neg (Bool.eq_false_iff.mp hthrows), hpc, k.es, k.params]
  exact ⟨_, hstep, rfl, ⟨k.a, k.x, k.y, k.sp, k.p⟩, execute_of_unhandled hstep rfl⟩

/-! ## Unbound accesses -/

theorem memRead_unbound {s : State} {a : Word} (h : readBinding s a = .unbound) :
    memRead a s = .fault (.unboundAccess a s.cfg .read s) := by
  simp only [memRead, h]

theorem memWrite_unbound {s : State} {a : Word} (v : Byte) (h : writeBinding s a = .unbound) :
    memWrite a v s = .fault (.unboundAccess a s.cfg .write s) := by
  simp only [memWrite, h]

/-- Settles O41: the fault of the access ends the fetch and with it the step, or the store. -/
theorem unboundAccessFaults : Obligations.UnboundAccessFaults := by
  intro s a v
  refine ⟨fun h => ⟨s, memRead_unbound h⟩, fun h => ⟨s, memWrite_unbound v h⟩, fun h => ⟨s, ?_⟩, fun h => ⟨s, ?_⟩⟩
  · rw [step, fetch, memRead_unbound h, andThen_fault, andThen_fault]
  · simp only [exec_staAbs, storeShape, resolve, andThen_next, memWrite_unbound s.a h, andThen_fault]

/-! ## Runs under evaluators -/

/-- The poll counts no instruction (R338). -/
theorem poll_instructions {s t : State} (h : poll s = .next t) : t.es.instructions = s.es.instructions := by
  obtain ⟨-, u, hu, rfl⟩ | ⟨-, -, -, u, hu, rfl⟩ | ⟨-, -, rfl⟩ := poll_cases h
  · show u.es.instructions = _; rw [(interruptEntry_kept hu).es]
  · show u.es.instructions = _; rw [(interruptEntry_kept hu).es]
  · rfl

/-- A step that knew its instruction counted it once (R154). -/
theorem step_instructions {s t : State} (h : step s = .next t) (hl : t.es.lastHandled = true) :
    t.es.instructions = s.es.instructions + 1 := by
  obtain ⟨b0, u, -, ht⟩ | ⟨i, u, v, w, hf, he, ho, hp⟩ := step_cases h
  · unfold unknownOpcode at ht
    split at ht
    · cases ht
    · cases ht; cases hl
  · obtain ⟨extra, hes, -⟩ := (exec_executed he).counted
    rw [poll_instructions hp, (observe_kept ho).es, hes, State.accounted, (fetch_kept hf).es]

/-- A run that has not stopped after `m` steps has counted `m` instructions, and after the last of them every evaluator said yes. -/
theorem executeLoop_running {es : List Evaluator} {start s t : State} {m : Nat} (h : executeLoop es start m s = .running t) :
    t.es.instructions = s.es.instructions + m ∧
    (m = 0 ∨ ∃ before, ∀ e ∈ es, (e ⟨start, before, t⟩).continues = true) := by
  induction m generalizing s with
  | zero => cases h; exact ⟨rfl, .inl rfl⟩
  | succ m ih =>
    simp only [executeLoop] at h
    split at h
    · cases h
    · cases h
    · next u hu =>
      split at h
      · next hl =>
        split at h
        · cases h
        · next hf =>
          obtain ⟨hcount, hlast⟩ := ih h
          refine ⟨by rw [hcount, step_instructions hu hl]; omega, .inr ?_⟩
          obtain rfl | hlast := hlast
          · cases h; exact ⟨s, firstStop_eq_none.mp hf⟩
          · exact hlast
      · cases h

/-- A run stopped by evaluators, by the step that stopped it and the evaluator that did (R360, R361). -/
theorem execute_stopped {es : List Evaluator} {fuel k : Nat} {reason : Option String} {s t : State}
    (h : execute es fuel s = .stopped k reason t) :
    ∃ m before e, m < fuel ∧ execute es m s = .running before ∧ step before = .next t ∧ t.es.lastHandled = true ∧
      es[k]? = some e ∧ e ⟨s, before, t⟩ = ⟨false, reason⟩ ∧
      ∀ j < k, ∀ f, es[j]? = some f → (f ⟨s, before, t⟩).continues = true := by
  obtain ⟨m, before, hm, hrun, hstep, hl, hf⟩ := executeLoop_stopped h
  obtain ⟨k', e, hk, he, hv, hyes⟩ := firstStop_eq_some.mp hf
  rw [Nat.zero_add] at hk
  subst hk
  exact ⟨m, before, e, hm, hrun, hstep, hl, he, hv, hyes⟩

/-- A run under one evaluator that is stopped by it. -/
theorem execute_stopped_alone {e : Evaluator} {fuel k : Nat} {reason : Option String} {s t : State}
    (h : execute [e] fuel s = .stopped k reason t) :
    k = 0 ∧ ∃ m before, execute [e] m s = .running before ∧ step before = .next t ∧ t.es.lastHandled = true ∧
      e ⟨s, before, t⟩ = ⟨false, reason⟩ := by
  obtain ⟨m, before, f, -, hrun, hstep, hl, hf, hv, -⟩ := execute_stopped h
  rw [List.getElem?_singleton, Option.ite_none_right_eq_some, Option.some.injEq] at hf
  obtain ⟨rfl, rfl⟩ := hf
  exact ⟨rfl, m, before, hrun, hstep, hl, hv⟩

/-- Settles O59: the budget in instructions is met by the step after `m` others, where `m` is 0 or still below it. -/
theorem runStopsWhereAsked : Obligations.RunStopsWhereAsked := by
  refine fun n fuel k reason s t => ⟨fun es => execute_stopped, fun h => ?_, fun h => ?_⟩
  · obtain ⟨rfl, m, before, hrun, hstep, hl, hv⟩ := execute_stopped_alone h
    obtain ⟨hno, rfl⟩ := Verdict.mk.inj hv
    obtain ⟨hcount, hlast⟩ := executeLoop_running hrun
    have hnow := step_instructions hstep hl
    have hover : ¬ t.es.instructions - s.es.instructions < n := of_decide_eq_false hno
    have hbudget : m = 0 ∨ m < n := hlast.imp_right fun ⟨b, hb⟩ => by
      have hlt : before.es.instructions - s.es.instructions < n := of_decide_eq_true (hb _ (List.mem_singleton.mpr rfl))
      omega
    exact ⟨by omega, rfl, rfl⟩
  · obtain ⟨rfl, m, before, -, -, -, hv⟩ := execute_stopped_alone h
    obtain ⟨hno, rfl⟩ := Verdict.mk.inj hv
    exact ⟨Nat.not_lt.mp (of_decide_eq_false hno), rfl, rfl⟩

end Sys2Proof.Machine
end

section
/-! The host between steps (spec/70_reset_and_hazards.md R380 to R392): Reset, and that each of the host's moves keeps the invariant. -/

namespace Sys2Proof.Machine

/-- Settles O57: the vector is read plainly, and the registers are loaded from it and the parameters. -/
theorem resetLoadsTheVector : Obligations.ResetLoadsTheVector := by
  intro s w h
  rw [resetCpu, memReadWord_of_peekWord (a := Config.resetVector) h, andThen_next]

theorem memWriteWord_kept {a w : Word} {s t : State} (h : memWriteWord a w s = .next t) : Kept s t := by
  obtain ⟨u, hu, h⟩ := andThen_eq_next.mp h
  exact (memWrite_kept hu).trans (memWrite_kept h)

theorem storeData_kept {a : Word} {bytes : List Byte} {s t : State} (h : storeData a bytes s = .next t) : Kept s t := by
  induction bytes generalizing a s with
  | nil => cases h; exact Kept.refl _
  | cons b bytes ih =>
    obtain ⟨u, hu, h⟩ := andThen_eq_next.mp h
    exact (memWrite_kept hu).trans (ih h)

/-- SetBit and ClearBit are a read and a write of one byte (R97). -/
theorem readThenWrite_kept {a : Word} {f : Byte → Byte} {s t : State}
    (h : (andThen (memRead a s) fun r => memWrite a (f r.1) r.2) = .next t) : Kept s t := by
  obtain ⟨⟨v, u⟩, hu, h⟩ := andThen_eq_next.mp h
  exact (memRead_kept hu).trans (memWrite_kept h)

theorem resetCpu_inv {s t : State} (h : resetCpu s = .next t) (hs : s.Inv) : t.Inv := by
  obtain ⟨⟨w, u⟩, hu, h⟩ := andThen_eq_next.mp h
  cases h
  exact (RegistersOnly.update u ..).inv ((memReadWord_kept hu).inv hs)

/-- Settles O51: a move of the host sets registers and latches, or accesses memory as an instruction does. -/
theorem hostKeepsInvariant : Obligations.HostKeepsInvariant := by
  intro m s t hs h
  cases m with
  | reset => exact resetCpu_inv h hs
  | writeA | writeX | writeY | writeSp | writePc | writeP | writeFlag | writeIrq | raiseNmi => cases h; exact hs
  | readByte a =>
    obtain ⟨⟨v, u⟩, hu, h⟩ := andThen_eq_next.mp h
    cases h
    exact (memRead_kept hu).inv hs
  | writeByte a v => exact (memWrite_kept h).inv hs
  | writeWord a w => exact (memWriteWord_kept h).inv hs
  | storeData a bytes => exact (storeData_kept h).inv hs
  | setBit a n => exact (readThenWrite_kept (f := (· ||| bitMask n)) h).inv hs
  | clearBit a n => exact (readThenWrite_kept (f := (· &&& ~~~(bitMask n))) h).inv hs
  | setMemoryConfiguration i => exact (setMemoryConfiguration_kept h).inv hs
  | writeSharedStore w => exact (writeStoreByte_kept h).inv hs

end Sys2Proof.Machine
end
